-- ==== Sys2Proof/Word.lean ====
section
/-! DEFINITION. The structural widths of the block (00_scope.md R10) as data. Words and register values are natural numbers, each within its
width: "Durations, counts, indices and lengths are natural numbers; no rule relies on wrap-around" (00_scope.md R14, 92 D26). -/
namespace Sys2Proof

/-- The six structural widths (00_scope.md R10). -/
structure Widths where
  /-- `ID_W`: a command identifier. -/
  idW   : Nat
  /-- `REP_W`: the repeat count. -/
  repW  : Nat
  /-- `SYM_W`: a ROM symbol word, signed. -/
  symW  : Nat
  /-- `ADDR_W`: a symbol-store address. -/
  addrW : Nat
  /-- `LEN_W`: a command length. -/
  lenW  : Nat
  /-- `TMR_W`: the interval timer. -/
  tmrW  : Nat
  deriving DecidableEq, Repr

/-- The defaults of 00_scope.md R10, with which the spec writes its encodings and vectors. -/
def Widths.default : Widths := ⟨8, 8, 8, 12, 8, 32⟩

end Sys2Proof
end

