-- ==== Sys2Proof/Config.lean ====
section
/-! DEFINITION. What the spec fixes once for the block, and its free values: constants with no body, of
which nothing can be proved but that they exist. -/
namespace Sys2Proof.Config

/-- `REPEAT_DEFAULT = 3`, the repeat count used when the host supplies none (00_scope.md R9, 44_host_ops.md R151). -/
def repeatDefault : Nat := 3

/-- FREE VALUE (log 5). Whether the pin driver answers `fail` to a request that lies beyond the answers the state
lists (43_pin_driver_ops.md R146, 93_implementation_defined.md U9), at draw number `k`. -/
opaque driverFails : Nat → Bool

/-- FREE VALUE (log 6). The ticks from an accepted start to the first event or to the validation error: `T_SETUP`
and `T_V` of 42_transmitter.md R121b, "possibly different for every transmission" (93_implementation_defined.md U8). -/
opaque setupTicks : Nat → Nat

/-- FREE VALUE (log 20). `PIN`, the identity of the output pin handed to the driver by `configure(pin)`: opaque, on no port,
read by no rule (00_scope.md R9, 43_pin_driver_ops.md R140). -/
opaque pin : Nat

/-- The conversion of a source constant of `X` seconds to ticks, `round_half_up(X / T_CLK)` (00_scope.md R12).
It is applied when the block is configured; no step uses it. -/
def ticksOfSeconds (x tClk : Rat) : Nat := (x / tClk + 1 / 2).floor.toNat

end Sys2Proof.Config
end

