-- ==== Sys2Proof/Syntax.lean ====
section
/-! DEFINITION. The operations of the block as data: one constructor of `Instr` for each row of the operation map
(30_encoding.md R77, spec/opcode_table.json), the five word formats and the two code spaces P and T. -/
namespace Sys2Proof

/-- The five formats of 30_encoding.md R70. Which format a word has is known from where it is found. -/
inductive Format where
  | H | D | S | P | T
  deriving DecidableEq, Repr

/-- The pin-driver operations of format P (30_encoding.md R74). -/
inductive DrvOp where
  | configure | setHigh | setLow | release
  deriving DecidableEq, Repr

/-- The duration selects of format T (30_encoding.md R75); codes 6 and 7 are reserved and have no constructor. -/
inductive Dsel where
  | son | lon | soff | loff | hres | rres
  deriving DecidableEq, Repr

/-- A directory entry, format D: data, not an operation (20_memory.md R51, 30_encoding.md R72). -/
structure DirEntry where
  base : Nat
  len  : Nat
  deriving DecidableEq, Repr

/-- The fifteen operations. -/
inductive Instr where
  /-- `HOLD` (R152). Its fields are ignored; they are kept so that no bit of the word is lost. -/
  | hold (repValid : Bool) (rep : Nat) (cmd : Nat)
  /-- `TRANSMIT` (R150). -/
  | transmit (rep : Nat) (cmd : Nat)
  /-- `TRANSMIT.DFLT` (R151); field `repeat` is ignored. -/
  | transmitDflt (rep : Nat) (cmd : Nat)
  /-- `SYM n` (R101). -/
  | sym (n : Nat)
  /-- `SYM.NEG`, `n < 0` (R105). -/
  | symNeg (n : Int)
  /-- `CONFIGURE` (R141). -/
  | configure
  /-- `SET_HIGH` (R142). -/
  | setHigh
  /-- `SET_LOW` (R143). -/
  | setLow
  /-- `RELEASE` (R144). -/
  | release
  /-- `WAIT.SON` (R145, R75). -/
  | waitSon
  /-- `WAIT.LON` (R145, R75). -/
  | waitLon
  /-- `WAIT.SOFF` (R145, R75). -/
  | waitSoff
  /-- `WAIT.LOFF` (R145, R75). -/
  | waitLoff
  /-- `WAIT.HRES` (R145, R75). -/
  | waitHres
  /-- `WAIT.RRES` (R145, R75). -/
  | waitRres
  deriving DecidableEq, Repr

end Sys2Proof
end

