-- ==== Sys2Proof/WellFormed.lean ====
section
/-! DEFINITION. Which terms of `Instr` stand for a word of the hardware of given widths. -/
namespace Sys2Proof

/-- A term is well formed when its operands fit their fields. The fields of format H have `REP_W` and `ID_W` bits (30_encoding.md R71);
`SYM n` takes 0 to `2^(SYM_W-1) - 1` (41_encoder.md R101) and `SYM.NEG n` takes `-2^(SYM_W-1)` to -1 (41_encoder.md R105). -/
def Instr.wellFormed (W : Widths) : Instr → Bool
  | .hold _ rep cmd => decide (rep < 2 ^ W.repW) && decide (cmd < 2 ^ W.idW)
  | .transmit rep cmd => decide (rep < 2 ^ W.repW) && decide (cmd < 2 ^ W.idW)
  | .transmitDflt rep cmd => decide (rep < 2 ^ W.repW) && decide (cmd < 2 ^ W.idW)
  | .sym n => decide (n < 2 ^ (W.symW - 1))
  | .symNeg n => decide (-(2 ^ (W.symW - 1)) ≤ n) && decide (n < 0)
  | .configure | .setHigh | .setLow | .release => true
  | .waitSon | .waitLon | .waitSoff | .waitLoff | .waitHres | .waitRres => true

end Sys2Proof
end

