-- ==== Sys2Proof/Decode.lean ====
section
/-! DEFINITION. The decoder and the encoder, both written from the field tables of 30_encoding.md R71 to R75. The decoder is
total on every word of every format and rejects by name. -/
namespace Sys2Proof

/-- Why a word has no operation. -/
inductive DecodeError where
  /-- The number has a bit set above its format's width (30_encoding.md R70: each format has one fixed length). -/
  | tooWide
  /-- Format T codes 6 and 7 (30_encoding.md R75, R78). -/
  | reservedWait
  /-- Format D encodes data and selects no operation (30_encoding.md R77). -/
  | dataFormat
  deriving DecidableEq, Repr

/-- The slice of `n` bits of `v` from bit `lo` up (00_scope.md R14, `v[lo+n-1:lo]`). -/
def slice (v lo n : Nat) : Nat := v / 2 ^ lo % 2 ^ n

/-- The length of each format in bits (30_encoding.md R70). -/
def Format.width (W : Widths) : Format → Nat
  | .H => 2 + W.repW + W.idW
  | .D => W.addrW + W.lenW
  | .S => W.symW
  | .P => 2
  | .T => 3

/-- The code of a pin-driver operation on `drv_op` (30_encoding.md R74). -/
def DrvOp.code : DrvOp → BitVec 2
  | .configure => 0b00
  | .setHigh => 0b01
  | .setLow => 0b10
  | .release => 0b11

/-- The code of a duration select (30_encoding.md R75). -/
def Dsel.code : Dsel → BitVec 3
  | .son => 0b000
  | .lon => 0b001
  | .soff => 0b010
  | .loff => 0b011
  | .hres => 0b100
  | .rres => 0b101

/-- The operation that performs a wait on a duration select (30_encoding.md R75). -/
def Dsel.instr : Dsel → Instr
  | .son => .waitSon
  | .lon => .waitLon
  | .soff => .waitSoff
  | .loff => .waitLoff
  | .hres => .waitHres
  | .rres => .waitRres

/-- The operation that makes a pin-driver request (30_encoding.md R74). -/
def DrvOp.instr : DrvOp → Instr
  | .configure => .configure
  | .setHigh => .setHigh
  | .setLow => .setLow
  | .release => .release

/-- Format H, `{start, rep_valid, repeat, cmd_id}` (30_encoding.md R71, R77); at the default widths bits 17, 16, 15:8, 7:0. -/
def decodeH (W : Widths) (w : Nat) : Instr :=
  let repValid := decide (slice w (W.repW + W.idW) 1 = 1)
  let rep := slice w W.idW W.repW
  let cmd := slice w 0 W.idW
  if slice w (1 + W.repW + W.idW) 1 = 1 then
    if repValid then .transmit rep cmd else .transmitDflt rep cmd
  else .hold repValid rep cmd

/-- The word of format H with given fields (30_encoding.md R71). -/
def encodeH (W : Widths) (start repValid : Bool) (rep cmd : Nat) : Nat :=
  ((start.toNat * 2 + repValid.toNat) * 2 ^ W.repW + rep) * 2 ^ W.idW + cmd

/-- Format D, `{base, len}` (30_encoding.md R72); at the default widths bits 19:8, 7:0. -/
def decodeDir (W : Widths) (w : Nat) : DirEntry := ⟨slice w W.lenW W.addrW, slice w 0 W.lenW⟩

/-- The directory word of an entry (30_encoding.md R72). -/
def encodeDir (W : Widths) (e : DirEntry) : Nat := e.base * 2 ^ W.lenW + e.len

/-- Field `neg` of format S, the top bit (30_encoding.md R73). -/
def symNegative (W : Widths) (w : Nat) : Bool := decide (slice w (W.symW - 1) 1 = 1)

/-- `int(word)`: the integer of a symbol word, two's complement (30_encoding.md R73, R76c). -/
def symInt (W : Widths) (w : Nat) : Int := if symNegative W w then (w : Int) - 2 ^ W.symW else w

/-- Format S: with `neg = 0` the symbol is `nat(cnt)`, `cnt` being the bits below, and with `neg = 1` it is the negative value of the
whole word (30_encoding.md R73). -/
def decodeS (W : Widths) (w : Nat) : Instr :=
  if symNegative W w then .symNeg (symInt W w) else .sym (slice w 0 (W.symW - 1))

/-- Format P: all four codes are used (30_encoding.md R74). -/
def decodeP (w : BitVec 2) : Instr :=
  if w = 0b00#2 then .configure
  else if w = 0b01#2 then .setHigh
  else if w = 0b10#2 then .setLow
  else .release

/-- Format T: six codes, two reserved (30_encoding.md R75). -/
def decodeT (w : BitVec 3) : Except DecodeError Instr :=
  if w = 0b000#3 then .ok .waitSon
  else if w = 0b001#3 then .ok .waitLon
  else if w = 0b010#3 then .ok .waitSoff
  else if w = 0b011#3 then .ok .waitLoff
  else if w = 0b100#3 then .ok .waitHres
  else if w = 0b101#3 then .ok .waitRres
  else .error .reservedWait

/-- The decoder: the operation that the word with bits `w` selects where a word of format `f` is found. -/
def decode (W : Widths) (f : Format) (w : Nat) : Except DecodeError Instr :=
  if 2 ^ f.width W ≤ w then .error .tooWide
  else match f with
    | .H => .ok (decodeH W w)
    | .D => .error .dataFormat
    | .S => .ok (decodeS W w)
    | .P => .ok (decodeP (BitVec.ofNat 2 w))
    | .T => decodeT (BitVec.ofNat 3 w)

/-- The encoder: where a well-formed operation is found (its format) and its word, bit 0 the least significant. -/
def encode (W : Widths) : Instr → Format × Nat
  | .hold rv rep cmd => (.H, encodeH W false rv rep cmd)
  | .transmit rep cmd => (.H, encodeH W true true rep cmd)
  | .transmitDflt rep cmd => (.H, encodeH W true false rep cmd)
  | .sym n => (.S, n)
  | .symNeg n => (.S, (n + 2 ^ W.symW).toNat)
  | .configure => (.P, DrvOp.configure.code.toNat)
  | .setHigh => (.P, DrvOp.setHigh.code.toNat)
  | .setLow => (.P, DrvOp.setLow.code.toNat)
  | .release => (.P, DrvOp.release.code.toNat)
  | .waitSon => (.T, Dsel.son.code.toNat)
  | .waitLon => (.T, Dsel.lon.code.toNat)
  | .waitSoff => (.T, Dsel.soff.code.toNat)
  | .waitLoff => (.T, Dsel.loff.code.toNat)
  | .waitHres => (.T, Dsel.hres.code.toNat)
  | .waitRres => (.T, Dsel.rres.code.toNat)

/-- Widths that hold what the logic itself puts in them: a symbol word has its bit `neg` (30_encoding.md R73) and `rep_left` holds
`REPEAT_DEFAULT` (10_state.md R22). DEDUCED (log 11): 00_scope.md R11 does not list the two. -/
def Widths.ok (W : Widths) : Bool := decide (1 ≤ W.symW) && decide (Config.repeatDefault < 2 ^ W.repW)

/-- The format of an operation row of `nbits` bits. DESIGN CHOICE (log 14): the table's word does not say its format (R70), so
the width does: 2 is P, 3 is T, 8 is S, and 18, or its 24 bits of whole bytes, is H. -/
def formatOfBits (nbits : Nat) : Option Format :=
  if nbits = 2 then some .P
  else if nbits = 3 then some .T
  else if nbits = 8 then some .S
  else if nbits = 18 ∨ nbits = 24 then some .H
  else none

/-- The operation the decoder reads from a word of spec/opcode_table.json, which is written at the default widths. -/
def decodeTableWord (nbits w : Nat) : Option Instr :=
  match formatOfBits nbits with
  | none => none
  | some f => match decode .default f w with
    | .ok i => some i
    | .error _ => none

end Sys2Proof
end

