-- ==== Sys2Proof/Machine/State.lean ====
section
/-! DEFINITION. The state of the block as plain data: the registers of 10_state.md R21 to R27, the driver port outputs of R29,
the three constant stores of 20_memory.md R50 and the parameters of 00_scope.md R9 and R10, and the model's own fields. A word or register is
a natural number; its width is in the parameters and its range in the invariant (00_scope.md R14, 92 D26; log 1). -/
namespace Sys2Proof.Machine

/-- The phases of the sequencer, in the order of their codes 0 to 15 (10_state.md R23). -/
inductive Phase where
  | idle | validate | config
  | hdrHi | hdrHiW | hdrLo | hdrLoW | hdrRes
  | bodyHi | bodyHiW | bodyLo | bodyLoW | grpGap
  | repGap | release
  /-- Code 15: never reached; a state with it is refused. -/
  | reserved
  deriving DecidableEq, Repr

/-- The host inputs sampled at one clock edge: `rst` and the format H word, of which the ports carry the low `2 + REP_W + ID_W` bits
(10_state.md R28, 30_encoding.md R71). -/
structure HostIn where
  rst  : Bool
  word : Nat
  deriving DecidableEq, Repr

/-- The driver's answer to a request, port `drv_fail` (10_state.md R29). -/
inductive Answer where
  | ok | fail
  deriving DecidableEq, Repr

/-- An event of a trace (00_scope.md R16): a pin-driver request, with the mark `!fail` or without it, or a completed wait. -/
inductive Event where
  | req (op : DrvOp) (failed : Bool)
  | wait (d : Nat)
  deriving DecidableEq, Repr

/-- The three read-only stores (20_memory.md R50), each a list of (word address, word) in canonical form: addresses strictly rising,
no word equal to what an unlisted address reads as. -/
structure Memory where
  dir   : List (Nat × Nat)
  sym   : List (Nat × Nat)
  const : List (Nat × Nat)
  deriving DecidableEq, Repr

/-- The parameters that are no words of a store: the structural widths (00_scope.md R10), `SYNC_PULSES`, `N_CMDS` (R9) and `SYM_DEPTH` (R10). -/
structure Params where
  widths     : Widths
  syncPulses : Nat
  nCmds      : Nat
  symDepth   : Nat
  deriving DecidableEq, Repr

/-- The state of the block. -/
structure State where
  /-- R21, `ID_W` bits: the command identifier sampled at the accepted start. -/
  cmd_r     : Nat
  /-- R21, `ADDR_W` bits: the symbol-store address of symbol 0 of the selected command. -/
  base_r    : Nat
  /-- R21, `LEN_W` bits: the number of symbols of the selected command. -/
  len_r     : Nat
  /-- R22, R23: the phase. -/
  phase     : Phase
  /-- R22, `REP_W` bits: repeats still to be completed, counting the one in progress. -/
  rep_left  : Nat
  /-- R22, `LEN_W` bits: header pulse/gap pairs still to be completed, counting the one in progress. -/
  sync_left : Nat
  /-- R22, `LEN_W` bits: index of the symbol in progress. -/
  sym_idx   : Nat
  /-- R22, `SYM_W - 1` bits: long pulses of the group in progress still to be completed, counting the one in progress. -/
  long_left : Nat
  /-- R25, `TMR_W` bits: the interval timer, a down counter. -/
  tmr       : Nat
  /-- R26: the level driven toward the pin. -/
  tx        : Bool
  /-- R26: the pin is acquired and a `Release` is owed. -/
  tx_oe     : Bool
  /-- R27. -/
  busy      : Bool
  /-- R27. -/
  done      : Bool
  /-- R27, R160: 0 none, 1 `InvalidCommand`, 2 `DriverFault`, 3 `ResourceUnavailable`. -/
  err       : BitVec 2
  /-- R29: a driver event was performed at this tick boundary. How long it stays 1 past the boundary is the model's choice (log 21). -/
  drv_req   : Bool
  /-- R29, R74: which; meaningful only when `drv_req = 1`, and held until the next request otherwise (DESIGN CHOICE, log 9). -/
  drv_op    : BitVec 2
  /-- R50 to R54: the stores. No step writes them. -/
  mem       : Memory
  /-- R9, R10: the parameters. No step writes them. -/
  params    : Params
  /-- The model's own (log 4): the host inputs at the coming clock edges. -/
  hostIn    : List HostIn
  /-- The model's own (log 5): the driver's answers to the coming requests. -/
  answers   : List Answer
  /-- The model's own (log 5, log 6): how many free values were drawn. -/
  draws     : Nat
  /-- The model's own (log 6): set-up ticks still to pass before the validation of the start in progress. -/
  setup_left : Nat
  /-- The model's own (log 8): the clock edges taken so far. No step reads it. -/
  edge      : Nat
  /-- The model's own (log 8): the events performed so far, oldest first. No step reads it. -/
  trace     : List Event
  deriving DecidableEq, Repr

/-- Why the machine stops with a fault: what the spec says cannot happen in a reachable state. Safe. -/
inductive Fault where
  /-- Raised by `DISPATCH` when its symbol address lies outside the store: "no out-of-range word is ever read" (20_memory.md R57). Safe. -/
  | symbolOutsideStore
  /-- Raised by `DISPATCH` on a negative symbol: "A model never computes a pulse group for a negative symbol" (93 U1). Safe. -/
  | negativeSymbolDispatched
  deriving DecidableEq, Repr

/-- Why the machine refuses to give a meaning. -/
inductive Refusal where
  /-- Raised by `exec` alone, for an operation that has no meaning yet. Safe. -/
  | notModelled (mnemonic : String)
  /-- Raised by every meaning and by the step in a state whose parameter set is not well formed (00_scope.md R11, 93 U13). Safe. -/
  | illFormedParameters
  /-- Raised by the step in `phase` code 15 (10_state.md R23, 93 U11). Safe. -/
  | reservedPhase
  /-- Raised by the position update when a counter would leave the range of 10_state.md R22 (92 D26): unreachable. Safe. -/
  | positionOutOfBounds
  /-- Raised by the meaning of a term that no word encodes at the machine's widths (`SYM n` with `n >= 2^(SYM_W-1)`, log 13). Safe. -/
  | illFormedInstruction
  /-- Raised by the step when a fetched word decodes to no operation (30_encoding.md R78): unreachable. Safe. -/
  | undecodableWord
  deriving DecidableEq, Repr

/-- The outcome of one step or one operation. -/
abbrev Result := Host.Outcome State Fault Refusal

/-- Stores with nothing listed. -/
def Memory.empty : Memory := ⟨[], [], []⟩

/-- The spec's default widths (00_scope.md R10) and the least counts that are well formed. The counts are a DESIGN CHOICE (log 2), unsafe: the spec
gives no value. -/
def Params.least : Params := ⟨.default, 1, 0, 0⟩

/-- The state right after reset with given stores and parameters (10_state.md R33). -/
def State.resetWith (m : Memory) (p : Params) : State where
  cmd_r := 0
  base_r := 0
  len_r := 0
  phase := .idle
  rep_left := 0
  sync_left := 0
  sym_idx := 0
  long_left := 0
  tmr := 0
  tx := false
  tx_oe := false
  busy := false
  done := false
  err := 0
  drv_req := false
  drv_op := 0
  mem := m
  params := p
  hostIn := []
  answers := []
  draws := 0
  setup_left := 0
  edge := 0
  trace := []

/-- The machine right after reset (10_state.md R33, 70_reset_and_hazards.md R190). The stores and the parameters are those of logs 2 and 3. -/
def State.reset : State := State.resetWith Memory.empty Params.least

end Sys2Proof.Machine
end

