-- ==== Sys2Proof/Machine/Memory.lean ====
section
/-! DEFINITION. Reading the three stores, and the write by which they are loaded from outside (70_reset_and_hazards.md R199).
No operation of the block writes a store (20_memory.md R54). -/
namespace Sys2Proof.Machine

/-- The word at address `k` of a store whose unlisted words read as `dflt`. One whole word, no side effect (20_memory.md R56, R58). -/
def Store.read (dflt : Nat) : List (Nat × Nat) → Nat → Nat
  | [], _ => dflt
  | (a, v) :: l, k => if a = k then v else Store.read dflt l k

/-- The store with word `k` made `v`, keeping the canonical form. -/
def Store.write (dflt : Nat) : List (Nat × Nat) → Nat → Nat → List (Nat × Nat)
  | [], k, v => if v = dflt then [] else [(k, v)]
  | (a, u) :: l, k, v =>
    if k < a then (if v = dflt then (a, u) :: l else (k, v) :: (a, u) :: l)
    else if k = a then (if v = dflt then l else (k, v) :: l)
    else (a, u) :: Store.write dflt l k v

/-- The canonical form: addresses strictly rising, no listed word equal to what an unlisted one reads as. -/
abbrev Store.wf (dflt : Nat) (l : List (Nat × Nat)) : Prop :=
  l.Pairwise (fun p q => p.1 < q.1) ∧ ∀ p ∈ l, p.2 ≠ dflt

/-- What an unlisted word reads as. DESIGN CHOICE (log 3), unsafe: an empty directory entry, a zero symbol, one tick. -/
def Memory.dirDefault : Nat := 0
def Memory.symDefault : Nat := 0
def Memory.constDefault : Nat := 1

/-- `DIR[i]` (20_memory.md R51). -/
def Memory.readDir (m : Memory) (W : Widths) (i : Nat) : DirEntry := decodeDir W (Store.read Memory.dirDefault m.dir i)

/-- `SYM[a]` (20_memory.md R52). -/
def Memory.readSym (m : Memory) (a : Nat) : Nat := Store.read Memory.symDefault m.sym a

/-- `CONST[k]` (20_memory.md R53). -/
def Memory.readConst (m : Memory) (k : Nat) : Nat := Store.read Memory.constDefault m.const k

/-- Loading a directory word from outside. -/
def Memory.loadDir (m : Memory) (i w : Nat) : Memory :=
  { m with dir := Store.write Memory.dirDefault m.dir i w }

/-- Loading a symbol word from outside. -/
def Memory.loadSym (m : Memory) (a w : Nat) : Memory :=
  { m with sym := Store.write Memory.symDefault m.sym a w }

/-- Loading a constant word from outside. -/
def Memory.loadConst (m : Memory) (k w : Nat) : Memory :=
  { m with const := Store.write Memory.constDefault m.const k w }

/-- The three stores are in canonical form. -/
abbrev Memory.wf (m : Memory) : Prop :=
  Store.wf Memory.dirDefault m.dir ∧ Store.wf Memory.symDefault m.sym ∧ Store.wf Memory.constDefault m.const

/-- The `n` symbol words from address `a` on, in order (20_memory.md R52). -/
def Memory.symbols (m : Memory) (a : Nat) : Nat → List Nat
  | 0 => []
  | n + 1 => m.readSym a :: m.symbols (a + 1) n

end Sys2Proof.Machine
end

