-- ==== Sys2Proof/Machine/Operands.lean ====
section
/-! DEFINITION. How each operand is assembled (30_encoding.md R76), the durations of the waits (R75) and the well-formedness of a
parameter set (00_scope.md R11). -/
namespace Sys2Proof.Machine

/-- The six stored tick counts (20_memory.md R53). -/
def Memory.shortOn (m : Memory) : Nat := m.readConst 0
def Memory.longOn (m : Memory) : Nat := m.readConst 1
def Memory.shortOff (m : Memory) : Nat := m.readConst 2
def Memory.longOff (m : Memory) : Nat := m.readConst 3
def Memory.headerWait (m : Memory) : Nat := m.readConst 4
def Memory.sendWait (m : Memory) : Nat := m.readConst 5

/-- `HDR_RES_T`, computed each time from the stored words (00_scope.md R8, 30_encoding.md R76e). -/
def Memory.hdrRes (m : Memory) : Nat := m.headerWait - m.shortOff

/-- `REP_RES_T` (00_scope.md R8, 30_encoding.md R76e). -/
def Memory.repRes (m : Memory) : Nat := m.sendWait - m.shortOff

/-- The duration in ticks that a duration select names (30_encoding.md R75). -/
def Memory.duration (m : Memory) : Dsel → Nat
  | .son => m.shortOn
  | .lon => m.longOn
  | .soff => m.shortOff
  | .loff => m.longOff
  | .hres => m.hdrRes
  | .rres => m.repRes

/-- The parameter set is well formed (00_scope.md R11): (a) every tick count is at least 1; (b) both residuals are natural numbers;
(c) `SYNC_PULSES` is at least 1; (d) every tick count, and so each residual, fits the timer; (e) `N_CMDS` fits an identifier, every directory
entry and every symbol fits its field; and `SYM_DEPTH` fits an address (R10). That the widths hold what the logic puts in them (`Widths.ok`), and
that `SYNC_PULSES` fits `sync_left` (10_state.md R22), is DEDUCED (log 11). -/
def State.paramsOk (s : State) : Bool :=
  let W := s.params.widths
  decide (
    (1 ≤ s.mem.shortOn ∧ 1 ≤ s.mem.longOn ∧ 1 ≤ s.mem.shortOff ∧ 1 ≤ s.mem.longOff ∧ 1 ≤ s.mem.headerWait ∧
      1 ≤ s.mem.sendWait) ∧
    (s.mem.shortOff ≤ s.mem.headerWait ∧ s.mem.shortOff ≤ s.mem.sendWait) ∧
    1 ≤ s.params.syncPulses ∧
    (s.mem.shortOn < 2 ^ W.tmrW ∧ s.mem.longOn < 2 ^ W.tmrW ∧ s.mem.shortOff < 2 ^ W.tmrW ∧ s.mem.longOff < 2 ^ W.tmrW ∧
      s.mem.headerWait < 2 ^ W.tmrW ∧ s.mem.sendWait < 2 ^ W.tmrW) ∧
    (s.params.nCmds ≤ 2 ^ W.idW ∧ (∀ p ∈ s.mem.dir, p.2 < 2 ^ Format.D.width W) ∧
      ∀ p ∈ s.mem.sym, p.2 < 2 ^ Format.S.width W) ∧
    s.params.symDepth ≤ 2 ^ W.addrW ∧
    W.ok = true ∧ s.params.syncPulses < 2 ^ W.lenW)

/-- The symbol address `nat(base) + i`: a natural number that does not wrap (30_encoding.md R76d). -/
def State.symAddr (s : State) (i : Nat) : Nat := s.base_r + i

/-- `DIR[i]` at the machine's widths. -/
def State.dirEntry (s : State) (i : Nat) : DirEntry := s.mem.readDir s.params.widths i

/-- The directory entry lies inside the symbol store, or is empty and its base ignored (20_memory.md R51, R57). -/
def entryFits (depth : Nat) (e : DirEntry) : Bool :=
  decide (e.len = 0) || decide (e.base + e.len ≤ depth)

/-- The first negative symbol of a list of words, if there is one (41_encoder.md R109). -/
def firstNegative (W : Widths) : List Nat → Option Int
  | [] => none
  | w :: l => if symInt W w < 0 then some (symInt W w) else firstNegative W l

/-- `CATALOG(k)` (20_memory.md R55): the sequence of integers the stores give for a command identifier, if there is such an entry
and it lies inside the symbol store. -/
def State.catalog (s : State) (k : Nat) : Option (List Int) :=
  if k < s.params.nCmds then
    let e := s.dirEntry k
    if entryFits s.params.symDepth e then some ((s.mem.symbols e.base e.len).map (symInt s.params.widths)) else none
  else none

end Sys2Proof.Machine
end

