-- ==== Sys2Proof/Machine/Flags.lean ====
section
/-! DEFINITION. The three status flags (10_state.md R27) and the error codes (60_exceptions.md R160). -/
namespace Sys2Proof.Machine

/-- The three error kinds (60_exceptions.md R160). -/
inductive ErrKind where
  | invalidCommand | driverFault | resourceUnavailable
  deriving DecidableEq, Repr

/-- The code on `err` (60_exceptions.md R160); 0 is no error. -/
def ErrKind.code : ErrKind → BitVec 2
  | .invalidCommand => 1
  | .driverFault => 2
  | .resourceUnavailable => 3

/-- An accepted start: `done <- 0 ; err <- 0 ; busy <- 1` (44_host_ops.md R150). -/
def State.startFlags (s : State) : State := { s with done := false, err := 0, busy := true }

/-- The end of a transmission: `phase <- IDLE ; busy <- 0 ; done <- 1`, `err` kept (10_state.md R27, 44_host_ops.md R153). -/
def State.finish (s : State) : State := { s with phase := .idle, busy := false, done := true }

/-- `done` as a level-sensitive completion line to the host (60_exceptions.md R171). -/
def State.completionLine (s : State) : Bool := s.done

end Sys2Proof.Machine
end

