-- ==== Sys2Proof/Machine/Ops.lean ====
section
/-! DEFINITION. The named operations that the meanings share: emitting an event, a pin-driver request, taking an error, a clock edge,
reset, the timer. -/
namespace Sys2Proof.Machine

/-- Goes on from a next state; a fault or a refusal stays. -/
def andThen (r : Result) (k : State → Result) : Result :=
  match r with
  | .next s => k s
  | .fault f => .fault f
  | .refused x => .refused x

/-- A meaning holds only under a well-formed parameter set; "any other set is refused" (00_scope.md R11, 93 U13). -/
def gated (s : State) (s' : State) : Result :=
  if s.paramsOk then .next s' else .refused .illFormedParameters

/-- The meaning of an operation with operands: a term that no word encodes at the machine's widths has none (log 13). -/
def encodable (i : Instr) (s : State) (s' : State) : Result :=
  if i.wellFormed s.params.widths then gated s s' else .refused .illFormedInstruction

/-- `emit e` (00_scope.md R15): the event is appended to the trace. -/
def State.emit (s : State) (e : Event) : State := { s with trace := s.trace ++ [e] }

/-- The driver's answer to the next request: a free input under no law (43_pin_driver_ops.md R146). -/
def State.nextAnswer (s : State) : Answer :=
  match s.answers with
  | a :: _ => a
  | [] => if Config.driverFails s.draws then .fail else .ok

/-- `drv(op)` (00_scope.md R15, 43_pin_driver_ops.md R140): the request is driven on the port, and its answer is used up. -/
def State.request (s : State) (op : DrvOp) : State :=
  { s with
    drv_req := true, drv_op := op.code, answers := s.answers.tail
    draws := if s.answers = [] then s.draws + 1 else s.draws }

/-- TAKING AN ERROR: `raise E` (60_exceptions.md R165). Nothing is saved; `InvalidCommand` and `ResourceUnavailable` end the transmission,
`DriverFault` goes through the one `RELEASE` step. There is no return operation beside it: nothing was saved, and the host's
next accepted start clears `done` and `err` (60_exceptions.md R169). -/
def State.raise (s : State) : ErrKind → State
  | .invalidCommand => { s.finish with err := ErrKind.invalidCommand.code }
  | .resourceUnavailable => { s.finish with err := ErrKind.resourceUnavailable.code }
  | .driverFault => { s with err := ErrKind.driverFault.code, tx := false, phase := .release }

/-- The host inputs at the next clock edge. When no more are listed the host holds `rst = 0`, `start = 0` (70_reset_and_hazards.md R193(6); log 4). -/
def State.nextIn (s : State) : HostIn := s.hostIn.headD ⟨false, 0⟩

/-- The format H word on the ports at the next clock edge: the ports carry `2 + REP_W + ID_W` bits (10_state.md R28; log 4). -/
def State.hostWord (s : State) : Nat := slice s.nextIn.word 0 (Format.H.width s.params.widths)

/-- The clock reaches its next edge: the inputs of that edge are used up, and `drv_req` is 0 until a request is made. So `drv_req` of an event that
is the last of its edge (`RELEASE`, a failed `CONFIGURE`) reads 1 through the tick after it: DESIGN CHOICE (log 21), since 10_state.md R29 says only
"1 in the tick boundary at which a driver event is performed". -/
def State.clockEdge (s : State) : State :=
  { s with hostIn := s.hostIn.tail, edge := s.edge + 1, drv_req := false }

/-- Every register takes its reset value (70_reset_and_hazards.md R190, 10_state.md R33). The stores and parameters are not changed (R54), no
request is made, and what was sent stays sent (R197). -/
def State.toReset (s : State) : State :=
  { s with
    cmd_r := 0, base_r := 0, len_r := 0
    phase := .idle, rep_left := 0, sync_left := 0, sym_idx := 0, long_left := 0
    tmr := 0, tx := false, tx_oe := false, busy := false, done := false, err := 0
    drv_req := false, drv_op := 0, setup_left := 0 }

/-- How a stretch of ticks ends: all its ticks passed, or a reset came at one of their edges. -/
inductive Passed where
  | elapsed (s : State)
  | reset (s : State)
  deriving DecidableEq, Repr

/-- The state a stretch of ticks ends in. -/
def Passed.state : Passed → State
  | .elapsed s => s
  | .reset s => s

/-- One tick of the running timer: reset wins (70_reset_and_hazards.md R190), else the timer counts down by one (10_state.md R25).
The host word is not looked at: the block is busy (44_host_ops.md R152). -/
def State.timerTick (s : State) : Passed :=
  if s.nextIn.rst then .reset s.clockEdge.toReset
  else .elapsed { s.clockEdge with tmr := s.tmr - 1 }

/-- One tick of the set-up time of an accepted start (42_transmitter.md R121b). -/
def State.setupTick (s : State) : Passed :=
  if s.nextIn.rst then .reset s.clockEdge.toReset
  else .elapsed { s.clockEdge with setup_left := s.setup_left - 1 }

/-- `n` ticks of one kind, one after the other, unless a reset comes. -/
def passTicks (tick : State → Passed) : Nat → State → Passed
  | 0, s => .elapsed s
  | n + 1, s =>
    match tick s with
    | .elapsed s' => passTicks tick n s'
    | .reset s' => .reset s'

/-- Entering `WAIT(dsel)` (43_pin_driver_ops.md R145): `tmr <- d`; no driver request is made, and `drv_req` of a request made at this edge goes
back to 0 here (DESIGN CHOICE, log 21: 10_state.md R29 says only "in the tick boundary"). -/
def State.enterWait (s : State) (d : Dsel) : State :=
  { s with tmr := s.mem.duration d, drv_req := false }

/-- The end of a wait: its event is complete. The event enters the trace when the wait is over, so that a wait cut by reset leaves
none (70_reset_and_hazards.md R191, 95_test_vectors.md C7; DEDUCED, log 7). -/
def State.waitDone (s : State) (d : Dsel) : State := s.emit (.wait (s.mem.duration d))

/-- Lets the timer run out and completes the wait on `d`, unless a reset comes. -/
def State.runTimer (s : State) (d : Dsel) : Passed :=
  match passTicks State.timerTick s.tmr s with
  | .elapsed s' => .elapsed (s'.waitDone d)
  | .reset s' => .reset s'

end Sys2Proof.Machine
end

