-- ==== Sys2Proof/Machine/DriverOps.lean ====
section
/-! DEFINITION. The pin-driver operations (43_pin_driver_ops.md R141 to R144). Each is its own effect; where the sequencer goes next is the
position update of Sequencer.lean. -/
namespace Sys2Proof.Machine

/-- A request whose failure is an error: the event is emitted with the driver's answer; on `ok` the effect happens, on `fail` the error
is taken (43_pin_driver_ops.md R141 to R143). -/
def State.requestOr (s : State) (op : DrvOp) (effect : State → State) (e : ErrKind) : State :=
  match s.nextAnswer with
  | .ok => effect ((s.request op).emit (.req op false))
  | .fail => ((s.request op).emit (.req op true)).raise e

/-- `CONFIGURE` (43_pin_driver_ops.md R141): `tx_oe <- 1`, or `raise ResourceUnavailable`. -/
def execConfigure (s : State) : Result :=
  gated s (s.requestOr .configure (fun t => { t with tx_oe := true }) .resourceUnavailable)

/-- `SET_HIGH` (43_pin_driver_ops.md R142): `tx <- 1`, or `raise DriverFault`. -/
def execSetHigh (s : State) : Result :=
  gated s (s.requestOr .setHigh (fun t => { t with tx := true }) .driverFault)

/-- `SET_LOW` (43_pin_driver_ops.md R143): `tx <- 0`, or `raise DriverFault`. -/
def execSetLow (s : State) : Result :=
  gated s (s.requestOr .setLow (fun t => { t with tx := false }) .driverFault)

/-- `RELEASE` (43_pin_driver_ops.md R144): `tx <- 0 ; tx_oe <- 0`, and the transmission is over. The answer is ignored (60_exceptions.md R167), and
the event carries no mark whatever the answer is (42_transmitter.md R120; DEDUCED, log 10). -/
def execRelease (s : State) : Result :=
  gated s { ((s.request .release).emit (.req .release false)).finish with tx := false, tx_oe := false }

end Sys2Proof.Machine
end

