-- ==== Sys2Proof/Machine/HostOps.lean ====
section
/-! DEFINITION. The host operations (44_host_ops.md). -/
namespace Sys2Proof.Machine

/-- An accepted start (44_host_ops.md R150): the operands are latched, the flags set and the position is `(VALIDATE, rep, 0, 0, 0)`.
The set-up time is drawn here (42_transmitter.md R121b; free value, log 6). -/
def State.acceptStart (s : State) (rep cmd : Nat) : State :=
  { s.startFlags with
    cmd_r := cmd
    phase := .validate, rep_left := rep, sync_left := 0, sym_idx := 0, long_left := 0
    setup_left := Config.setupTicks s.draws, draws := s.draws + 1 }

/-- A start: accepted while `busy = 0`; while `busy = 1` it is ignored whole (44_host_ops.md R150, R152). -/
def State.start (s : State) (rep cmd : Nat) : State :=
  if s.busy then s else s.acceptStart rep cmd

/-- `HOLD` (44_host_ops.md R152): "It changes no state." -/
def execHold (repValid : Bool) (rep cmd : Nat) (s : State) : Result := encodable (.hold repValid rep cmd) s s

/-- `TRANSMIT` (44_host_ops.md R150). -/
def execTransmit (rep cmd : Nat) (s : State) : Result := encodable (.transmit rep cmd) s (s.start rep cmd)

/-- `TRANSMIT.DFLT` (44_host_ops.md R151): field `repeat` is ignored and the repeat count is `REPEAT_DEFAULT`. -/
def execTransmitDflt (rep cmd : Nat) (s : State) : Result :=
  encodable (.transmitDflt rep cmd) s (s.start Config.repeatDefault cmd)

end Sys2Proof.Machine
end

