-- ==== Sys2Proof/Machine/Encoder.lean ====
section
/-! DEFINITION. The Message Encoder as a function on data (41_encoder.md R100 to R107). The sequencer never builds its result (R108);
the meanings of the symbol words are in SymbolOps.lean. -/
namespace Sys2Proof.Machine

/-- A Pulse as data: one of the two names (30_encoding.md R82). -/
inductive PulseName where
  | longOn | shortOn
  deriving DecidableEq, Repr

/-- The duration a Pulse names (41_encoder.md R108). -/
def PulseName.ticks (m : Memory) : PulseName → Nat
  | .longOn => m.longOn
  | .shortOn => m.shortOn

/-- `group(n) = [LONG_ON]^n ++ [SHORT_ON]` (41_encoder.md R101). -/
def group (n : Nat) : List PulseName := List.replicate n .longOn ++ [.shortOn]

/-- `encode(c)`: `InvalidCommand` when any element is negative, else one group for each element in order (41_encoder.md R100, R103). -/
def encodeCommand (c : List Int) : Except ErrKind (List (List PulseName)) :=
  if c.any (fun n => decide (n < 0)) then .error .invalidCommand
  else .ok (c.map fun n => group n.toNat)

end Sys2Proof.Machine
end

