-- ==== Sys2Proof/Machine/SymbolOps.lean ====
section
/-! DEFINITION. The symbol words (41_encoder.md R101, R105). -/
namespace Sys2Proof.Machine

/-- `SYM n` (41_encoder.md R101, R108; 42_transmitter.md R119): `long_left <- n ; phase <- BODY_HI`. The steps that follow send `GROUP(n)`
(42_transmitter.md R114; DEDUCED, log 18). -/
def execSym (n : Nat) (s : State) : Result :=
  encodable (.sym n) s { s with long_left := n, phase := .bodyHi }

/-- `SYM.NEG n` (41_encoder.md R105): `raise InvalidCommand`. -/
def execSymNeg (n : Int) (s : State) : Result :=
  encodable (.symNeg n) s (s.raise .invalidCommand)

end Sys2Proof.Machine
end

