-- ==== Sys2Proof/Machine/WaitOps.lean ====
section
/-! DEFINITION. The timed wait (43_pin_driver_ops.md R145): one operation over six duration selects. -/
namespace Sys2Proof.Machine

/-- `WAIT(dsel)` (43_pin_driver_ops.md R145): `tmr <- d`, then one tick per count. It ends early only by reset. -/
def waitFor (d : Dsel) (s : State) : Result := gated s ((s.enterWait d).runTimer d).state

/-- `WAIT.SON`: `SHORT_ON_T` ticks (30_encoding.md R75). -/
def execWaitSon (s : State) : Result := waitFor .son s

/-- `WAIT.LON`: `LONG_ON_T` ticks (30_encoding.md R75). -/
def execWaitLon (s : State) : Result := waitFor .lon s

/-- `WAIT.SOFF`: `SHORT_OFF_T` ticks (30_encoding.md R75). -/
def execWaitSoff (s : State) : Result := waitFor .soff s

/-- `WAIT.LOFF`: `LONG_OFF_T` ticks (30_encoding.md R75). -/
def execWaitLoff (s : State) : Result := waitFor .loff s

/-- `WAIT.HRES`: `HEADER_WAIT_T - SHORT_OFF_T` ticks (30_encoding.md R75). -/
def execWaitHres (s : State) : Result := waitFor .hres s

/-- `WAIT.RRES`: `SEND_WAIT_T - SHORT_OFF_T` ticks (30_encoding.md R75). -/
def execWaitRres (s : State) : Result := waitFor .rres s

end Sys2Proof.Machine
end

