-- ==== Sys2Proof/Machine/Dispatch.lean ====
section
/-! DEFINITION. The one place where an operation meets its meaning: one arm per constructor of Instr. -/
namespace Sys2Proof.Machine

def exec (i : Instr) (s : State) : Host.Outcome State Fault Refusal :=
  match i with
  | .hold repValid rep cmd => Sys2Proof.Machine.execHold repValid rep cmd s
  | .transmit rep cmd => Sys2Proof.Machine.execTransmit rep cmd s
  | .transmitDflt rep cmd => Sys2Proof.Machine.execTransmitDflt rep cmd s
  | .sym n => Sys2Proof.Machine.execSym n s
  | .symNeg n => Sys2Proof.Machine.execSymNeg n s
  | .configure => Sys2Proof.Machine.execConfigure s
  | .setHigh => Sys2Proof.Machine.execSetHigh s
  | .setLow => Sys2Proof.Machine.execSetLow s
  | .release => Sys2Proof.Machine.execRelease s
  | .waitSon => Sys2Proof.Machine.execWaitSon s
  | .waitLon => Sys2Proof.Machine.execWaitLon s
  | .waitSoff => Sys2Proof.Machine.execWaitSoff s
  | .waitLoff => Sys2Proof.Machine.execWaitLoff s
  | .waitHres => Sys2Proof.Machine.execWaitHres s
  | .waitRres => Sys2Proof.Machine.execWaitRres s

end Sys2Proof.Machine
end

