-- ==== Sys2Proof/Machine/Sequencer.lean ====
section
/-! DEFINITION. The sequencer: which operation a position selects, the internal operations LOOKUP, VALIDATE and DISPATCH, and the position
update of the step table (42_transmitter.md R118, R119; 40_symbol_table.md R98; 41_encoder.md R109). -/
namespace Sys2Proof.Machine

/-- The pin-driver operation a phase issues (10_state.md R23). -/
def Phase.drvOp : Phase → Option DrvOp
  | .config => some .configure
  | .hdrHi | .bodyHi => some .setHigh
  | .hdrLo | .bodyLo => some .setLow
  | .release => some .release
  | .idle | .validate | .hdrHiW | .hdrLoW | .hdrRes | .bodyHiW | .bodyLoW | .grpGap | .repGap | .reserved => none

/-- The duration select of the wait a position performs; in `BODY_HI_W` it is the long one while `long_left > 0` (10_state.md R23). -/
def State.waitSel (s : State) : Option Dsel :=
  match s.phase with
  | .hdrHiW => some .son
  | .hdrLoW => some .soff
  | .hdrRes => some .hres
  | .bodyHiW => some (if s.long_left = 0 then .son else .lon)
  | .bodyLoW => some .soff
  | .grpGap => some .loff
  | .repGap => some .rres
  | .idle | .validate | .config | .hdrHi | .hdrLo | .bodyHi | .bodyLo | .release | .reserved => none

/-- Fetch: where the operation of a position is found and its word. While idle it is the host word at the next clock edge (30_encoding.md R71); in a
driver phase the code driven on `drv_op` (R74); in a wait phase the duration select (R75). `VALIDATE` fetches none: it is internal. -/
def State.fetch (s : State) : Option (Format × Nat) :=
  match s.phase with
  | .idle => some (.H, s.hostWord)
  | p => match p.drvOp, s.waitSel with
    | some op, _ => some (.P, op.code.toNat)
    | none, some d => some (.T, d.code.toNat)
    | none, none => none

/-- `LOOKUP` (40_symbol_table.md R98): the directory read; `none` when there is no such entry. -/
def State.lookup (s : State) : Option State :=
  if s.cmd_r < s.params.nCmds then
    some { s with base_r := (s.dirEntry s.cmd_r).base, len_r := (s.dirEntry s.cmd_r).len }
  else none

/-- `VALIDATE` (41_encoder.md R109): the lookup, the range check and the scan of every symbol, before any pin-driver request. A negative symbol word
found by the scan is the operation `SYM.NEG` (41_encoder.md R105). -/
def State.validate (s : State) : Result :=
  match s.lookup with
  | none => .next (s.raise .invalidCommand)
  | some t =>
    if entryFits t.params.symDepth ⟨t.base_r, t.len_r⟩ then
      match firstNegative t.params.widths (t.mem.symbols t.base_r t.len_r) with
      | some n => exec (.symNeg n) t
      | none => .next { t with phase := .config }
    else .next (t.raise .invalidCommand)

/-- `DISPATCH` (42_transmitter.md R119): the symbol word at `base_r + sym_idx` is fetched and run, or the body is complete and one repeat less is
left. Outside what validation guarantees it stops by name (logs 12, 13). -/
def State.dispatchSymbol (s : State) : Result :=
  if s.sym_idx < s.len_r then
    if s.symAddr s.sym_idx < s.params.symDepth then
      if symInt s.params.widths (s.mem.readSym (s.symAddr s.sym_idx)) < 0 then .fault .negativeSymbolDispatched
      else exec (decodeS s.params.widths (s.mem.readSym (s.symAddr s.sym_idx))) s
    else .fault .symbolOutsideStore
  else if s.rep_left = 0 then .refused .positionOutOfBounds
  else .next { s with
    rep_left := s.rep_left - 1
    phase := if s.rep_left - 1 = 0 then .release else .repGap }

/-- `HDR_START`: `sync_left <- SYNC_PULSES ; phase <- HDR_HI` (42_transmitter.md R118). -/
def State.hdrStart (s : State) : State :=
  { s with sync_left := s.params.syncPulses, phase := .hdrHi }

/-- The position update after the operation of the phase succeeded or its wait is over: the column "on `ok`, or after the wait" of the step
table (42_transmitter.md R118). A counter that would leave its range is refused (10_state.md R22; log 12). -/
def State.advance (s : State) : Result :=
  match s.phase with
  | .idle | .validate | .release => .next s
  | .config => .next (if s.rep_left = 0 then { s with phase := .release } else s.hdrStart)
  | .hdrHi => .next { s with phase := .hdrHiW }
  | .hdrHiW => .next { s with phase := .hdrLo }
  | .hdrLo => .next { s with phase := .hdrLoW }
  | .hdrLoW =>
    if s.sync_left = 0 then .refused .positionOutOfBounds
    else .next { s with
      sync_left := s.sync_left - 1
      phase := if s.sync_left - 1 = 0 then .hdrRes else .hdrHi }
  | .hdrRes => { s with sym_idx := 0 }.dispatchSymbol
  | .bodyHi => .next { s with phase := .bodyHiW }
  | .bodyHiW => .next { s with phase := .bodyLo }
  | .bodyLo => .next { s with phase := .bodyLoW }
  | .bodyLoW =>
    .next (if s.long_left = 0 then { s with phase := .grpGap }
      else { s with long_left := s.long_left - 1, phase := .bodyHi })
  | .grpGap =>
    if s.sym_idx < s.len_r then { s with sym_idx := s.sym_idx + 1 }.dispatchSymbol
    else .refused .positionOutOfBounds
  | .repGap => .next s.hdrStart
  | .reserved => .refused .reservedPhase

/-- What the step adds around an operation: when the operation left the phase `p` it was issued in (no error was taken, the transmission did not
start or end, no reset came), the position advances (DEDUCED, log 16). -/
def afterOp (p : Phase) (r : Result) : Result :=
  andThen r fun t => if t.phase = p then t.advance else .next t

/-- Decodes a fetched word and runs its operation. -/
def State.runWord (s : State) (f : Format) (w : Nat) : Result :=
  match decode s.params.widths f w with
  | .error _ => .refused .undecodableWord
  | .ok i => afterOp s.phase (exec i s)

/-- Fetches and runs the operation of a position that issues one. -/
def State.runFetched (s : State) : Result :=
  match s.fetch with
  | none => .refused .reservedPhase
  | some (f, w) => s.runWord f w

/-- One step while idle: the clock reaches its next edge; reset wins over a start (70_reset_and_hazards.md R190, 95_test_vectors.md C7), else the host word
sampled there is decoded (30_encoding.md R71). That one idle step is one edge is a DESIGN CHOICE (log 17). -/
def State.idleStep (s : State) : Result :=
  if s.nextIn.rst then .next s.clockEdge.toReset
  else s.clockEdge.runWord .H s.hostWord

/-- The rest of a wait that is in progress. -/
def State.resumeWait (s : State) (d : Dsel) : Result :=
  match s.runTimer d with
  | .elapsed t => t.advance
  | .reset t => .next t

/-- The validation step: the set-up ticks pass, then the command is validated, unless a reset comes. That the lookup and the scan fall at the end of that time, in one
step with it, is a DESIGN CHOICE (logs 6, 17): 42_transmitter.md R121b fixes only the edge of the first event or of `done` and `err`. -/
def State.validateStep (s : State) : Result :=
  match passTicks State.setupTick s.setup_left s with
  | .elapsed t => t.validate
  | .reset t => .next t

/-- One step of the sequencer at the operation level (00_scope.md R13, 42_transmitter.md R118): one pin-driver operation, or one whole wait, or one internal or
host step. -/
def State.opStep (s : State) : Result :=
  match s.phase with
  | .idle => s.idleStep
  | .validate => s.validateStep
  | _ =>
    match s.waitSel with
    | some d => if s.tmr = 0 then s.runFetched else s.resumeWait d
    | none => s.runFetched

/-! ## Placing a word where the next step fetches it (log 15) -/

/-- A parked position from which a word of another format can be fetched: the transmission is running and no wait is in progress. -/
def State.park (s : State) (p : Phase) : State :=
  { s with phase := p, busy := true, tmr := 0 }

/-- A format H word at the next clock edge of an idle block. -/
def State.placeHost (s : State) (w : Nat) : State :=
  { s with phase := .idle, busy := false, hostIn := ⟨false, w⟩ :: s.hostIn }

/-- A symbol word as the one symbol of the selected command: a valid one where `DISPATCH` fetches it next (after the header residual), a negative
one where the validation scan does. -/
def State.placeSymbol (s : State) (w : Nat) : State :=
  let s1 := { s with
    mem := (s.mem.loadSym 0 w).loadDir 0 (encodeDir s.params.widths ⟨0, 1⟩)
    params := { s.params with nCmds := max 1 s.params.nCmds, symDepth := max 1 s.params.symDepth }
    cmd_r := 0, base_r := 0, len_r := 1, setup_left := 0, hostIn := [] }
  if symInt s.params.widths w < 0 then s1.park .validate else s1.park .hdrRes

/-- A driver code in a phase that issues it; the driver answers `ok`. -/
def State.placeDriver (s : State) (w : BitVec 2) : State :=
  let s1 := { s with answers := .ok :: s.answers }
  if w = DrvOp.configure.code then s1.park .config
  else if w = DrvOp.setHigh.code then s1.park .hdrHi
  else if w = DrvOp.setLow.code then s1.park .hdrLo
  else s1.park .release

/-- A duration select in a phase that waits on it, with the counters the position update after it reads. -/
def State.placeWait (s : State) (w : BitVec 3) : State :=
  let s1 := { s with rep_left := 1, len_r := 0, sym_idx := 0, long_left := 0 }
  if w = Dsel.son.code then s1.park .hdrHiW
  else if w = Dsel.lon.code then { s1 with long_left := 1 }.park .bodyHiW
  else if w = Dsel.soff.code then s1.park .bodyLoW
  else if w = Dsel.loff.code then { s1 with len_r := 1 }.park .grpGap
  else if w = Dsel.hres.code then s1.park .hdrRes
  else if w = Dsel.rres.code then s1.park .repGap
  else s1.park .reserved

/-- The word with bits `w` of an operation row of `nbits` bits, placed where the next step fetches it. A word of no format leaves the state in
the reserved phase, which the step refuses. -/
def State.placeWord (s : State) (nbits w : Nat) : State :=
  match formatOfBits nbits with
  | some .H => s.placeHost w
  | some .S => s.placeSymbol w
  | some .P => s.placeDriver (BitVec.ofNat 2 w)
  | some .T => s.placeWait (BitVec.ofNat 3 w)
  | some .D | none => s.park .reserved

end Sys2Proof.Machine
end

