-- ==== Sys2Proof/Machine/Step.lean ====
section
/-! DEFINITION. One step of the machine, and the placing of a word where it fetches its next operation. -/
namespace Sys2Proof.Machine

/-- One step at the operation level (00_scope.md R13); a parameter set that is not well formed has no meaning (R11). -/
def step (s : State) : Host.Outcome State Fault Refusal :=
  if s.paramsOk then s.opStep else .refused .illFormedParameters

/-- `s` with the word `w` of an operation row of `nbits` bits stored where `step` fetches its next operation (log 15). -/
def State.withFetchWord (s : State) (nbits w : Nat) : State := s.placeWord nbits w

end Sys2Proof.Machine
end

