-- ==== Sys2Proof/Machine/Tick.lean ====
section
/-! DEFINITION. The tick level (00_scope.md R13, 42_transmitter.md R121): each step is one event or internal step, which takes no time, or one clock
tick. Inside a wait the timer `tmr` is visible, and reset is sampled at every edge. -/
namespace Sys2Proof.Machine

/-- The timer has reached the end of its wait, or has not yet (42_transmitter.md R121d). -/
def State.waitCheck (s : State) (d : Dsel) : Result :=
  if s.tmr = 0 then (s.waitDone d).advance else .next s

/-- One tick-level step in a wait phase: the wait is entered, in no time, or one tick of it passes. -/
def State.waitTick (s : State) (d : Dsel) : Result :=
  if s.tmr = 0 then (s.enterWait d).waitCheck d
  else match s.timerTick with
    | .elapsed t => t.waitCheck d
    | .reset t => .next t

/-- One step at the tick level. -/
def tickStep (s : State) : Result :=
  if s.paramsOk then
    match s.phase with
    | .idle => s.idleStep
    | .validate => if s.setup_left = 0 then s.validate else .next s.setupTick.state
    | _ =>
      match s.waitSel with
      | some d => s.waitTick d
      | none => s.runFetched
  else .refused .illFormedParameters

/-- `n` tick-level steps, stopping at the first fault or refusal. -/
def tickRun : Nat → State → Result
  | 0, s => .next s
  | n + 1, s => andThen (tickStep s) (tickRun n)

end Sys2Proof.Machine
end

