-- ==== Sys2Proof/Machine/Trace.lean ====
section
/-! DEFINITION. The trace of a transmission as a function (42_transmitter.md R111 to R117, R120), its duration (R122, R123) and its waveform (R124). No step
uses it: it is the source's description, which the machine must equal (R128). -/
namespace Sys2Proof.Machine

abbrev Event.configure : Event := .req .configure false
abbrev Event.setHigh : Event := .req .setHigh false
abbrev Event.setLow : Event := .req .setLow false
abbrev Event.release : Event := .req .release false

/-- `PULSE(d)` (R112). -/
def pulseTrace (m : Memory) (d : Nat) : List Event := [.setHigh, .wait d, .setLow, .wait m.shortOff]

/-- `k` copies of a sequence, one after the other (00_scope.md R16, `s^k`). -/
def repeatTrace (k : Nat) (l : List Event) : List Event := (List.replicate k l).flatten

/-- `HEADER` (R113). -/
def headerTrace (m : Memory) (syncPulses : Nat) : List Event :=
  repeatTrace syncPulses (pulseTrace m m.shortOn) ++ [.wait m.hdrRes]

/-- `GROUP(n)` (R114). -/
def groupTrace (m : Memory) (n : Nat) : List Event :=
  repeatTrace n (pulseTrace m m.longOn) ++ pulseTrace m m.shortOn ++ [.wait m.longOff]

/-- `BODY(c)` (R114). -/
def bodyTrace (m : Memory) (c : List Nat) : List Event := (c.map (groupTrace m)).flatten

/-- `UNIT(c)` (R116). -/
def unitTrace (m : Memory) (syncPulses : Nat) (c : List Nat) : List Event :=
  headerTrace m syncPulses ++ bodyTrace m c

/-- `REPGAP` (R115). -/
def repGapTrace (m : Memory) : List Event := [.wait m.repRes]

/-- `FRAME(c, R)` (R116). -/
def frameTrace (m : Memory) (syncPulses : Nat) (c : List Nat) : Nat → List Event
  | 0 => []
  | r + 1 => unitTrace m syncPulses c ++ repeatTrace r (repGapTrace m ++ unitTrace m syncPulses c)

/-- `transmit_ok(c, R)` (R111). -/
def transmitOk (m : Memory) (syncPulses : Nat) (c : List Nat) (r : Nat) : List Event :=
  [.configure] ++ frameTrace m syncPulses c r ++ [.release]

/-- The error that ends a transmission whose trace without failure is given, under answers `fails` (`true` is `fail`) to its driver events in
order, and the trace it leaves (R120). -/
def cutTrace : List Event → List Bool → List Event × Option ErrKind
  | [], _ => ([], none)
  | .wait d :: l, a => ((.wait d) :: (cutTrace l a).1, (cutTrace l a).2)
  | .req op _ :: l, a =>
    if a.headD false ∧ op ≠ .release then
      if op = .configure then ([.req .configure true], some .resourceUnavailable)
      else ([.req op true, .release], some .driverFault)
    else ((.req op false) :: (cutTrace l a.tail).1, (cutTrace l a.tail).2)

/-- The code left on `err` (60_exceptions.md R160). -/
def errCode : Option ErrKind → BitVec 2
  | none => 0
  | some e => e.code

/-- The ticks of an event (42_transmitter.md R121). -/
def Event.ticks : Event → Nat
  | .req _ _ => 0
  | .wait d => d

/-- `D_k`: the ticks of a sequence of events (42_transmitter.md R121e). -/
def traceTicks (l : List Event) : Nat := (l.map Event.ticks).sum

/-- `T_unit(c)` (R122), as the source's formula. -/
def unitTicks (m : Memory) (syncPulses : Nat) (c : List Nat) : Nat :=
  syncPulses * (m.shortOn + m.shortOff) + m.hdrRes
    + (c.map fun n => n * m.longOn + m.shortOn + (n + 1) * m.shortOff + m.longOff).sum

/-- `T_total(c, R)` (R123). -/
def totalTicks (m : Memory) (syncPulses : Nat) (c : List Nat) : Nat → Nat
  | 0 => 0
  | r + 1 => (r + 1) * unitTicks m syncPulses c + r * m.repRes

/-- A run of the waveform: a level and its length in ticks (00_scope.md R16); `H(d)` is `⟨true, d⟩`, `L(d)` is `⟨false, d⟩`. -/
structure Run where
  level : Bool
  ticks : Nat
  deriving DecidableEq, Repr

/-- The level after an event (R124). -/
def levelAfter (level : Bool) : Event → Bool
  | .req .setHigh failed => !failed
  | .req .setLow _ => false
  | .req .configure _ => false
  | .req .release _ => false
  | .wait _ => level

/-- The level `tx` has after a trace that began with it low (R124). -/
def traceLevel (l : List Event) : Bool := l.foldl levelAfter false

/-- Adds a run in front, merging it with the first run when the level is the same (R124). -/
def addRun (r : Run) : List Run → List Run
  | [] => [r]
  | q :: l => if r.level = q.level then ⟨r.level, r.ticks + q.ticks⟩ :: l else r :: q :: l

/-- The waveform of a trace that starts at a level (R124). -/
def waveFrom (level : Bool) : List Event → List Run
  | [] => []
  | .wait d :: l => if 0 < d then addRun ⟨level, d⟩ (waveFrom level l) else waveFrom level l
  | .req op f :: l => waveFrom (levelAfter level (.req op f)) l

/-- `wave(trace)` (R124). -/
def wave (l : List Event) : List Run := waveFrom false l

/-- The number of requests of one operation in a trace (R125). -/
def countReq (op : DrvOp) (l : List Event) : Nat :=
  l.countP fun e => match e with
    | .req op' _ => decide (op' = op)
    | .wait _ => false

end Sys2Proof.Machine
end

