-- ==== Sys2Proof/Safety.lean ====
section
/-! DEFINITION. What counts as a safe state and a safe run: the invariants of 10_state.md R34, with the ranges of R22 and the facts validation leaves
(41_encoder.md R109). -/
namespace Sys2Proof.Machine

/-- The phases in which the pin is acquired: codes 3 to 14 (10_state.md R34b). -/
def Phase.acquired : Phase → Bool
  | .hdrHi | .hdrHiW | .hdrLo | .hdrLoW | .hdrRes => true
  | .bodyHi | .bodyHiW | .bodyLo | .bodyLoW | .grpGap | .repGap | .release => true
  | .idle | .validate | .config | .reserved => false

/-- The phases in which the pin is high (10_state.md R34c). -/
def Phase.high : Phase → Bool
  | .hdrHiW | .hdrLo | .bodyHiW | .bodyLo => true
  | .idle | .validate | .config | .hdrHi | .hdrLoW | .hdrRes | .bodyHi | .bodyLoW | .grpGap | .repGap | .release
  | .reserved => false

/-- The phases of the header's pulses, in which `sync_left` counts the one in progress. -/
def Phase.syncing : Phase → Bool
  | .hdrHi | .hdrHiW | .hdrLo | .hdrLoW => true
  | .idle | .validate | .config | .hdrRes | .bodyHi | .bodyHiW | .bodyLo | .bodyLoW | .grpGap | .repGap | .release
  | .reserved => false

/-- The phases of the body, in which `sym_idx` is a symbol of the command. -/
def Phase.inBody : Phase → Bool
  | .bodyHi | .bodyHiW | .bodyLo | .bodyLoW | .grpGap => true
  | .idle | .validate | .config | .hdrHi | .hdrHiW | .hdrLo | .hdrLoW | .hdrRes | .repGap | .release | .reserved => false

/-- The flags and pin outputs agree with the phase (10_state.md R34 a to e). `tx` is high exactly in the phases R34c names. -/
abbrev FlagsInv (s : State) : Prop :=
  (s.busy = true ↔ s.phase ≠ .idle) ∧
  (s.tx_oe = true ↔ s.phase.acquired = true) ∧
  (s.tx = true ↔ s.phase.high = true) ∧
  (s.done = true → s.phase = .idle) ∧
  (s.err ≠ 0 → s.done = true ∨ s.phase = .release)

/-- The position is within its ranges (10_state.md R22, R34f): a counter that counts the thing in progress is not 0. -/
abbrev PositionInv (s : State) : Prop :=
  s.phase ≠ .reserved ∧
  s.sym_idx ≤ s.len_r ∧
  s.sync_left ≤ s.params.syncPulses ∧
  (s.phase = .validate → s.sym_idx = 0) ∧
  (s.phase.syncing = true → s.sync_left ≠ 0) ∧
  (s.phase.inBody = true → s.sym_idx < s.len_r) ∧
  (s.phase.acquired = true → s.phase ≠ .release → s.rep_left ≠ 0)

/-- The selected command is valid (41_encoder.md R109): it lies in the store and no symbol is negative. -/
abbrev CommandValid (s : State) : Prop :=
  entryFits s.params.symDepth ⟨s.base_r, s.len_r⟩ = true ∧
  firstNegative s.params.widths (s.mem.symbols s.base_r s.len_r) = none

/-- The timer runs only in a wait phase (10_state.md R25). -/
abbrev TimerInv (s : State) : Prop := s.tmr ≠ 0 → s.waitSel ≠ none

/-- Every register holds a value of its width (00_scope.md R10, 10_state.md R21, R22, R25). -/
abbrev RangeInv (s : State) : Prop :=
  s.cmd_r < 2 ^ s.params.widths.idW ∧ s.base_r < 2 ^ s.params.widths.addrW ∧ s.len_r < 2 ^ s.params.widths.lenW ∧
  s.rep_left < 2 ^ s.params.widths.repW ∧ s.sync_left < 2 ^ s.params.widths.lenW ∧
  s.sym_idx < 2 ^ s.params.widths.lenW ∧ s.long_left < 2 ^ (s.params.widths.symW - 1) ∧
  s.tmr < 2 ^ s.params.widths.tmrW

/-- The invariant of the machine. -/
abbrev Invariant (s : State) : Prop :=
  s.paramsOk = true ∧ s.mem.wf ∧ FlagsInv s ∧ PositionInv s ∧ TimerInv s ∧ RangeInv s ∧
  (s.phase = .config ∨ s.phase.acquired = true → CommandValid s)

/-- Every register and driver output holds its reset value (10_state.md R33). -/
abbrev ResetValues (s : State) : Prop :=
  s.phase = .idle ∧ s.rep_left = 0 ∧ s.sync_left = 0 ∧ s.sym_idx = 0 ∧ s.long_left = 0 ∧
  s.cmd_r = 0 ∧ s.base_r = 0 ∧ s.len_r = 0 ∧ s.tmr = 0 ∧ s.tx = false ∧ s.tx_oe = false ∧
  s.busy = false ∧ s.done = false ∧ s.err = 0 ∧ s.drv_req = false ∧ s.drv_op = 0

/-- No reset is asserted at any edge whose inputs are listed (70_reset_and_hazards.md R191: "no reset between the accepted start and the return to
`IDLE`"). -/
abbrev NoReset (s : State) : Prop := ∀ h ∈ s.hostIn, h.rst = false

/-- The machine stops at none of `n` steps from `s`. -/
def SafeFor (n : Nat) (s : State) : Prop := ∃ t, Sys2Proof.core.run n s = .next t

/-- The six waits and their operations (30_encoding.md R75). -/
def waitOps : List (Dsel × Instr) :=
  [(.son, .waitSon), (.lon, .waitLon), (.soff, .waitSoff), (.loff, .waitLoff), (.hres, .waitHres), (.rres, .waitRres)]

/-- No reset is asserted at any of the next `n` edges. -/
abbrev NoResetWithin (n : Nat) (s : State) : Prop := ∀ h ∈ s.hostIn.take n, h.rst = false

/-- The state `n` edges later, when only time passes. -/
def State.later (s : State) (n : Nat) : State :=
  { s with drv_req := false, hostIn := s.hostIn.drop n, edge := s.edge + n }

/-- The state after a whole wait on `d` with no reset in it (43_pin_driver_ops.md R145). -/
def State.afterWait (s : State) (d : Dsel) : State :=
  { s.later (s.mem.duration d) with tmr := 0, trace := s.trace ++ [.wait (s.mem.duration d)] }

/-- The driver's answer to the `j`-th request from now on: `true` is `fail`. -/
def State.failsAt (s : State) (j : Nat) : Bool :=
  match s.answers[j]? with
  | some a => decide (a = .fail)
  | none => Config.driverFails (s.draws + (j - s.answers.length))

end Sys2Proof.Machine
end

