-- ==== Sys2Proof/Certificates/Slice0/Obligations.lean ====
section
/-! DEFINITION. The statements for the provers. Each docstring names the rule of spec/ it formalises; the steps `Machine.step` are those of the
operation level (00_scope.md R13), `tickStep` those of the tick level (42_transmitter.md R121). -/
open Sys2Proof Sys2Proof.Machine

/-! ## Encoding -/

/-- Every well-formed operation decodes back from its own word, with every operand at every value and at all widths (30_encoding.md R71, R73, R74, R75;
00_scope.md R10). -/
def Obligations.DecodeOfEncodeIsIdentity : Prop :=
  ∀ (W : Widths) (i : Instr), W.ok = true → i.wellFormed W = true → decode W (encode W i).1 (encode W i).2 = .ok i

/-- Every word that selects an operation is the word of that operation and of no other, at all widths (30_encoding.md R71 to R75; 00_scope.md R10). -/
def Obligations.EncodeOfDecodeIsIdentity : Prop :=
  ∀ (W : Widths) (f : Format) (w : Nat) (i : Instr), W.ok = true → decode W f w = .ok i →
    i.wellFormed W = true ∧ encode W i = (f, w)

/-- The words that select no operation: numbers wider than their format, directory words, and the reserved format T codes (30_encoding.md R70, R77, R78). -/
def Obligations.RefusedWordsAreTheReservedOnes : Prop :=
  ∀ (W : Widths) (f : Format) (w : Nat) (e : DecodeError), decode W f w = .error e ↔
    (e = .tooWide ∧ 2 ^ f.width W ≤ w) ∨
    (e = .dataFormat ∧ f = .D ∧ w < 2 ^ (W.addrW + W.lenW)) ∨
    (e = .reservedWait ∧ f = .T ∧ 6 ≤ w ∧ w < 8)

/-- Format D: `base` in the `ADDR_W` bits above, `len` in the `LEN_W` bits below (19:8 and 7:0 at the default widths), and no other bit (30_encoding.md R72). -/
def Obligations.DirectoryWordFields : Prop :=
  (∀ (W : Widths) (e : DirEntry), e.base < 2 ^ W.addrW → e.len < 2 ^ W.lenW →
    encodeDir W e = 2 ^ W.lenW * e.base + e.len ∧ encodeDir W e < 2 ^ (W.addrW + W.lenW) ∧
    decodeDir W (encodeDir W e) = e) ∧
  (∀ (W : Widths) (w : Nat), w < 2 ^ (W.addrW + W.lenW) →
    encodeDir W (decodeDir W w) = w ∧ (decodeDir W w).base < 2 ^ W.addrW ∧ (decodeDir W w).len < 2 ^ W.lenW) ∧
  ∀ e : DirEntry, encodeDir .default e = 256 * e.base + e.len

/-- Words written out in the spec decode, at its default widths, to the operations it names (44_host_ops.md R150, R151; 41_encoder.md R101, R105;
30_encoding.md R74, R75). -/
def Obligations.SpecWordsDecode : Prop :=
  let decode := decode .default
  decode .H 0x30502 = .ok (.transmit 5 2) ∧ decode .H 0x27F02 = .ok (.transmitDflt 0x7F 2) ∧
  decode .H 0x1FFFF = .ok (.hold true 255 255) ∧
  decode .S 0x02 = .ok (.sym 2) ∧ decode .S 0x7F = .ok (.sym 127) ∧
  decode .S 0x80 = .ok (.symNeg (-128)) ∧ decode .S 0xFF = .ok (.symNeg (-1)) ∧
  decode .P 0b00 = .ok .configure ∧ decode .P 0b01 = .ok .setHigh ∧
  decode .P 0b10 = .ok .setLow ∧ decode .P 0b11 = .ok .release ∧
  decode .T 0b000 = .ok .waitSon ∧ decode .T 0b001 = .ok .waitLon ∧ decode .T 0b010 = .ok .waitSoff ∧
  decode .T 0b011 = .ok .waitLoff ∧ decode .T 0b100 = .ok .waitHres ∧ decode .T 0b101 = .ok .waitRres

/-! ## Host operations -/

/-- `TRANSMIT` while idle (44_host_ops.md R150): what it writes, and that it writes nothing else. The set-up time is a free value (log 6). -/
def Obligations.TransmitStartsATransmission : Prop :=
  ∀ (rep cmd : Nat) (s : State), s.paramsOk = true → s.busy = false →
    rep < 2 ^ s.params.widths.repW → cmd < 2 ^ s.params.widths.idW →
    ∃ t, exec (.transmit rep cmd) s = .next { s with
      cmd_r := cmd, done := false, err := 0, busy := true
      phase := .validate, rep_left := rep, sync_left := 0, sym_idx := 0, long_left := 0
      setup_left := t, draws := s.draws + 1 }

/-- `TRANSMIT.DFLT` while idle (44_host_ops.md R151): as `TRANSMIT` with the repeat count 3; field `repeat` is ignored. -/
def Obligations.TransmitDefaultSendsThreeRepeats : Prop :=
  ∀ (rep cmd : Nat) (s : State), s.paramsOk = true → s.busy = false →
    rep < 2 ^ s.params.widths.repW → cmd < 2 ^ s.params.widths.idW →
    ∃ t, exec (.transmitDflt rep cmd) s = .next { s with
      cmd_r := cmd, done := false, err := 0, busy := true
      phase := .validate, rep_left := 3, sync_left := 0, sym_idx := 0, long_left := 0
      setup_left := t, draws := s.draws + 1 }

/-- `HOLD`, and a start while busy (44_host_ops.md R152): neither changes any state. -/
def Obligations.HoldAndStartWhileBusyChangeNothing : Prop :=
  ∀ (rv : Bool) (rep cmd : Nat) (s : State), s.paramsOk = true →
    rep < 2 ^ s.params.widths.repW → cmd < 2 ^ s.params.widths.idW →
    exec (.hold rv rep cmd) s = .next s ∧
    (s.busy = true → exec (.transmit rep cmd) s = .next s ∧ exec (.transmitDflt rep cmd) s = .next s)

/-! ## Symbol words -/

/-- `SYM n` (41_encoder.md R101, R108; 42_transmitter.md R119): the symbol is loaded into `long_left` and its group begins; nothing else changes. That this is the
operation's own effect, the pulses being the steps after it, is log 18. -/
def Obligations.SymbolStartsItsGroup : Prop :=
  ∀ (n : Nat) (s : State), s.paramsOk = true → n < 2 ^ (s.params.widths.symW - 1) →
    exec (.sym n) s = .next { s with long_left := n, phase := .bodyHi }

/-- `SYM.NEG` raises `InvalidCommand` (41_encoder.md R105; 60_exceptions.md R165); nothing else changes. The scan runs it (log 18). -/
def Obligations.NegativeSymbolRaisesInvalidCommand : Prop :=
  ∀ (n : Int) (s : State), s.paramsOk = true →
    -(2 ^ (s.params.widths.symW - 1)) ≤ n → n < 0 →
    exec (.symNeg n) s = .next { s with err := 1, phase := .idle, busy := false, done := true }

/-! ## Pin-driver operations -/

/-- A request drives `drv_req` and `drv_op` and uses up the driver's next answer, and nothing else (43_pin_driver_ops.md R140, R146; 30_encoding.md R74): the answers to
the requests after it move up by one. -/
def Obligations.RequestDrivesThePort : Prop :=
  ∀ (op : DrvOp) (s : State),
    s.request op = { s with
      drv_req := true, drv_op := op.code, answers := (s.request op).answers, draws := (s.request op).draws } ∧
    (s.nextAnswer = .fail ↔ s.failsAt 0 = true) ∧ ∀ j, (s.request op).failsAt j = s.failsAt (j + 1)

/-- `CONFIGURE` (43_pin_driver_ops.md R141): on `ok` the pin is acquired; on `fail` `ResourceUnavailable` is taken and nothing is released. -/
def Obligations.ConfigureAcquiresThePin : Prop :=
  ∀ s : State, s.paramsOk = true →
    (s.nextAnswer = .ok → exec .configure s = .next { s.request .configure with
      trace := s.trace ++ [.req .configure false], tx_oe := true }) ∧
    (s.nextAnswer = .fail → exec .configure s = .next { s.request .configure with
      trace := s.trace ++ [.req .configure true], err := 3, phase := .idle, busy := false, done := true })

/-- `SET_HIGH` and `SET_LOW` (43_pin_driver_ops.md R142, R143): on `ok` `tx` takes the level; on `fail` `DriverFault` is taken, which forces `tx` to 0 and
leads to the release (60_exceptions.md R165). -/
def Obligations.SetHighAndSetLowDriveThePin : Prop :=
  ∀ s : State, s.paramsOk = true →
    (s.nextAnswer = .ok →
      exec .setHigh s = .next { s.request .setHigh with trace := s.trace ++ [.req .setHigh false], tx := true } ∧
      exec .setLow s = .next { s.request .setLow with trace := s.trace ++ [.req .setLow false], tx := false }) ∧
    (s.nextAnswer = .fail →
      exec .setHigh s = .next { s.request .setHigh with
        trace := s.trace ++ [.req .setHigh true], err := 2, tx := false, phase := .release } ∧
      exec .setLow s = .next { s.request .setLow with
        trace := s.trace ++ [.req .setLow true], err := 2, tx := false, phase := .release })

/-- `RELEASE` (43_pin_driver_ops.md R144): the same on either answer; `err` is kept (60_exceptions.md R167). That the event carries no mark is log 10. -/
def Obligations.ReleaseGivesThePinBack : Prop :=
  ∀ s : State, s.paramsOk = true →
    exec .release s = .next { s.request .release with
      trace := s.trace ++ [.req .release false], tx := false, tx_oe := false
      phase := .idle, busy := false, done := true }

/-! ## Waits -/

/-- The durations of the six waits (30_encoding.md R75): the stored words 0 to 3, and two differences of stored words. -/
def Obligations.WaitDurationsComeFromTheConstantStore : Prop :=
  ∀ s : State, s.paramsOk = true →
    s.mem.duration .son = s.mem.readConst 0 ∧ s.mem.duration .lon = s.mem.readConst 1 ∧
    s.mem.duration .soff = s.mem.readConst 2 ∧ s.mem.duration .loff = s.mem.readConst 3 ∧
    s.mem.duration .hres + s.mem.readConst 2 = s.mem.readConst 4 ∧
    s.mem.duration .rres + s.mem.readConst 2 = s.mem.readConst 5

/-- A wait lasts exactly its duration (43_pin_driver_ops.md R145; 42_transmitter.md R121d): with no reset at any of its edges, that many edges pass, its event
is added, and nothing else changes: `tx`, `tx_oe` and every flag hold. That the event is added when the wait is over is log 7, and that `drv_req` of a request made
at its first edge reads 0 from its entry on is log 21; both are the model's choice. -/
def Obligations.WaitLastsExactlyItsDuration : Prop :=
  ∀ (d : Dsel) (i : Instr) (s : State), (d, i) ∈ [(Dsel.son, Instr.waitSon), (.lon, .waitLon), (.soff, .waitSoff),
      (.loff, .waitLoff), (.hres, .waitHres), (.rres, .waitRres)] → s.paramsOk = true →
    NoResetWithin (s.mem.duration d) s →
    exec i s = .next { s with
      tmr := 0, drv_req := false
      hostIn := s.hostIn.drop (s.mem.duration d), edge := s.edge + s.mem.duration d
      trace := s.trace ++ [.wait (s.mem.duration d)] }

/-- A reset at the `k`-th edge of a wait ends the transmission there (70_reset_and_hazards.md R190, R191): every register takes its reset value, no
event is added (log 7), and the stores, the parameters and what was sent stay. -/
def Obligations.ResetEndsAWaitAtItsEdge : Prop :=
  ∀ (d : Dsel) (i : Instr) (s : State) (k : Nat) (w : Nat), (d, i) ∈ waitOps → s.paramsOk = true →
    k < s.mem.duration d → NoResetWithin k s → s.hostIn[k]? = some ⟨true, w⟩ →
    exec i s = .next { s with
      cmd_r := 0, base_r := 0, len_r := 0
      phase := .idle, rep_left := 0, sync_left := 0, sym_idx := 0, long_left := 0
      tmr := 0, tx := false, tx_oe := false, busy := false, done := false, err := 0
      drv_req := false, drv_op := 0, setup_left := 0
      hostIn := s.hostIn.drop (k + 1), edge := s.edge + (k + 1) }

/-! ## Reset -/

/-- The reset values (10_state.md R33): in the state right after reset under any stores and parameters, and in the state any state is reset to. The stores are not changed. -/
def Obligations.ResetLeavesTheResetValues : Prop :=
  (∀ (m : Memory) (p : Params), ResetValues (State.resetWith m p) ∧ (State.resetWith m p).mem = m) ∧
  ∀ s : State, ResetValues s.toReset ∧ s.toReset.mem = s.mem

/-- Reset wins at the next clock edge whatever the block was doing there (70_reset_and_hazards.md R190): idle, in its set-up time, in a wait or about to enter one
that takes time. Every register takes its reset value, and nothing else changes but that the edge has passed. -/
def Obligations.ResetWinsAtTheNextEdge : Prop :=
  ∀ s : State, s.paramsOk = true → s.nextIn.rst = true →
    (s.phase = .idle ∨ (s.phase = .validate ∧ s.setup_left ≠ 0) ∨
      (∃ d, s.waitSel = some d ∧ (s.tmr ≠ 0 ∨ s.mem.duration d ≠ 0))) →
    step s = .next { s with
      cmd_r := 0, base_r := 0, len_r := 0
      phase := .idle, rep_left := 0, sync_left := 0, sym_idx := 0, long_left := 0
      tmr := 0, tx := false, tx_oe := false, busy := false, done := false, err := 0
      drv_req := false, drv_op := 0, setup_left := 0
      hostIn := s.hostIn.tail, edge := s.edge + 1 }

/-! ## The sequencer -/

/-- What each phase fetches (10_state.md R23; 30_encoding.md R71, R74, R75). -/
def Obligations.EachPhaseFetchesItsOperation : Prop :=
  ∀ s : State,
    (s.phase = .idle → s.fetch = some (.H, s.hostWord)) ∧
    (s.phase = .config → s.fetch = some (.P, 0b00)) ∧
    (s.phase = .hdrHi ∨ s.phase = .bodyHi → s.fetch = some (.P, 0b01)) ∧
    (s.phase = .hdrLo ∨ s.phase = .bodyLo → s.fetch = some (.P, 0b10)) ∧
    (s.phase = .release → s.fetch = some (.P, 0b11)) ∧
    (s.phase = .hdrHiW → s.fetch = some (.T, 0b000)) ∧
    (s.phase = .bodyHiW → s.long_left = 0 → s.fetch = some (.T, 0b000)) ∧
    (s.phase = .bodyHiW → s.long_left ≠ 0 → s.fetch = some (.T, 0b001)) ∧
    (s.phase = .hdrLoW ∨ s.phase = .bodyLoW → s.fetch = some (.T, 0b010)) ∧
    (s.phase = .grpGap → s.fetch = some (.T, 0b011)) ∧
    (s.phase = .hdrRes → s.fetch = some (.T, 0b100)) ∧
    (s.phase = .repGap → s.fetch = some (.T, 0b101)) ∧
    (s.phase = .validate ∨ s.phase = .reserved → s.fetch = none)

/-- A step runs the fetched operation (00_scope.md R13; 42_transmitter.md R118). While idle, with no reset at the next edge, it is the host word sampled there; in
every other phase that fetches, with no wait in progress, it is the fetched word's. Around the operation the step adds the position update, when
the operation left the phase it was issued in (logs 16, 17). That `drv_req` goes back to 0 at the edge an idle step takes is the model's choice (log 21). -/
def Obligations.StepRunsTheFetchedOperation : Prop :=
  (∀ (s : State) (i : Instr), s.paramsOk = true → s.phase = .idle → s.nextIn.rst = false →
    decode s.params.widths .H s.hostWord = .ok i → step s = afterOp .idle (exec i s.clockEdge)) ∧
  (∀ (s : State) (f : Format) (w : Nat) (i : Instr), s.paramsOk = true → s.phase ≠ .idle → s.tmr = 0 →
    s.fetch = some (f, w) → decode s.params.widths f w = .ok i → step s = afterOp s.phase (exec i s)) ∧
  (∀ (p : Phase) (t : State),
    (t.phase ≠ p → afterOp p (.next t) = .next t) ∧ (t.phase = p → afterOp p (.next t) = t.advance))

/-- The step table, driver rows, on `ok` (42_transmitter.md R118): what each step writes and the next phase, and that nothing else changes. `RELEASE` takes either answer (the unmarked event is
log 10). -/
def Obligations.StepTableOfDriverPhases : Prop :=
  ∀ s : State, s.paramsOk = true →
    (s.nextAnswer = .ok →
      (s.phase = .config → s.rep_left = 0 → step s = .next { s.request .configure with
        trace := s.trace ++ [.req .configure false], tx_oe := true, phase := .release }) ∧
      (s.phase = .config → s.rep_left ≠ 0 → step s = .next { s.request .configure with
        trace := s.trace ++ [.req .configure false], tx_oe := true
        sync_left := s.params.syncPulses, phase := .hdrHi }) ∧
      (s.phase = .hdrHi → step s = .next { s.request .setHigh with
        trace := s.trace ++ [.req .setHigh false], tx := true, phase := .hdrHiW }) ∧
      (s.phase = .bodyHi → step s = .next { s.request .setHigh with
        trace := s.trace ++ [.req .setHigh false], tx := true, phase := .bodyHiW }) ∧
      (s.phase = .hdrLo → step s = .next { s.request .setLow with
        trace := s.trace ++ [.req .setLow false], tx := false, phase := .hdrLoW }) ∧
      (s.phase = .bodyLo → step s = .next { s.request .setLow with
        trace := s.trace ++ [.req .setLow false], tx := false, phase := .bodyLoW })) ∧
    (s.phase = .release → step s = .next { s.request .release with
      trace := s.trace ++ [.req .release false], tx := false, tx_oe := false
      phase := .idle, busy := false, done := true })

/-- The step table, driver rows, on `fail` (42_transmitter.md R118; 60_exceptions.md R165): which error each phase takes and what taking it writes. -/
def Obligations.DriverFailureTakesItsError : Prop :=
  ∀ s : State, s.paramsOk = true → s.nextAnswer = .fail →
    (s.phase = .config → step s = .next { s.request .configure with
      trace := s.trace ++ [.req .configure true], err := 3, phase := .idle, busy := false, done := true }) ∧
    (s.phase = .hdrHi ∨ s.phase = .bodyHi → step s = .next { s.request .setHigh with
      trace := s.trace ++ [.req .setHigh true], err := 2, tx := false, phase := .release }) ∧
    (s.phase = .hdrLo ∨ s.phase = .bodyLo → step s = .next { s.request .setLow with
      trace := s.trace ++ [.req .setLow true], err := 2, tx := false, phase := .release })

/-- The step table, wait rows (42_transmitter.md R118), with no reset in the wait: the counter each row updates and the next phase. The two rows that end in `DISPATCH` are
`DispatchFetchesTheNextSymbol`. Where the event enters the trace (log 7) and that `drv_req` is 0 after the wait (log 21) are the model's choice. -/
def Obligations.StepTableOfWaitPhases : Prop :=
  ∀ s : State, s.paramsOk = true → s.tmr = 0 → NoReset s →
    (s.phase = .hdrHiW → step s = .next { s.afterWait .son with phase := .hdrLo }) ∧
    (s.phase = .hdrLoW → 1 < s.sync_left →
      step s = .next { s.afterWait .soff with sync_left := s.sync_left - 1, phase := .hdrHi }) ∧
    (s.phase = .hdrLoW → s.sync_left = 1 →
      step s = .next { s.afterWait .soff with sync_left := 0, phase := .hdrRes }) ∧
    (s.phase = .bodyHiW → s.long_left ≠ 0 → step s = .next { s.afterWait .lon with phase := .bodyLo }) ∧
    (s.phase = .bodyHiW → s.long_left = 0 → step s = .next { s.afterWait .son with phase := .bodyLo }) ∧
    (s.phase = .bodyLoW → s.long_left ≠ 0 →
      step s = .next { s.afterWait .soff with long_left := s.long_left - 1, phase := .bodyHi }) ∧
    (s.phase = .bodyLoW → s.long_left = 0 → step s = .next { s.afterWait .soff with phase := .grpGap }) ∧
    (s.phase = .repGap → step s = .next { s.afterWait .rres with
      sync_left := s.params.syncPulses, phase := .hdrHi })

/-- `DISPATCH` (42_transmitter.md R119) at the end of the header (`sym_idx <- 0`) and of a group (`sym_idx <- sym_idx + 1`): the next symbol of a valid command begins its
group, or the body is complete and one repeat less is left. Where the event of the wait enters the trace (log 7) and that `drv_req` is 0 after it (log 21) are the
model's choice. -/
def Obligations.DispatchFetchesTheNextSymbol : Prop :=
  ∀ (s : State) (d : Dsel) (idx : Nat), s.paramsOk = true → s.tmr = 0 → NoReset s → CommandValid s →
    (s.phase = .hdrRes ∧ d = .hres ∧ idx = 0 ∨
      s.phase = .grpGap ∧ d = .loff ∧ idx = s.sym_idx + 1 ∧ s.sym_idx < s.len_r) →
    (idx < s.len_r → step s = .next { s.afterWait d with
      sym_idx := idx, phase := .bodyHi
      long_left := s.mem.readSym (s.base_r + idx) }) ∧
    (s.len_r ≤ idx → s.rep_left = 1 → step s = .next { s.afterWait d with
      sym_idx := idx, rep_left := 0, phase := .release }) ∧
    (s.len_r ≤ idx → 1 < s.rep_left → step s = .next { s.afterWait d with
      sym_idx := idx, rep_left := s.rep_left - 1, phase := .repGap })

/-- A wait that is in progress goes on for the ticks left on the timer and then ends as any other (43_pin_driver_ops.md R145). Where its event enters the trace (log 7) and that
`drv_req` is 0 in it (log 21) are the model's choice. -/
def Obligations.WaitInProgressRunsToItsEnd : Prop :=
  ∀ (s : State) (d : Dsel), s.paramsOk = true → s.waitSel = some d → s.tmr ≠ 0 → NoResetWithin s.tmr s →
    step s = { s.later s.tmr with tmr := 0, trace := s.trace ++ [Event.wait (s.mem.duration d)] }.advance

/-- The step of the validation phase lets the set-up time pass first. 42_transmitter.md R121b fixes only the edge of the first event, or of `done` and `err`: that `LOOKUP` and
`VALIDATE` fall at the end of that time and make one step with it is the model's choice (logs 6, 17), and so are the length of the time (log 6) and that `drv_req` is 0 in it
(log 21). -/
def Obligations.SetupTimePassesBeforeValidation : Prop :=
  ∀ s : State, s.paramsOk = true → s.phase = .validate → s.setup_left ≠ 0 → NoResetWithin s.setup_left s →
    step s = step { s.later s.setup_left with setup_left := 0 }

/-- The validation scan (41_encoder.md R109; 40_symbol_table.md R98): an unknown identifier, an entry that runs past the symbol store and a negative symbol at any position raise
`InvalidCommand`; any other command goes on to `CONFIG`. In no case is anything requested of the driver. -/
def Obligations.ValidationAcceptsExactlyValidCommands : Prop :=
  ∀ s : State, s.paramsOk = true → s.phase = .validate → s.setup_left = 0 →
    let e := s.dirEntry s.cmd_r
    let symbol := fun i => symInt s.params.widths (s.mem.readSym (e.base + i))
    (s.params.nCmds ≤ s.cmd_r →
      step s = .next { s with err := 1, phase := .idle, busy := false, done := true }) ∧
    (s.cmd_r < s.params.nCmds →
      ((0 < e.len ∧ s.params.symDepth < e.base + e.len) ∨
        (∃ i, i < e.len ∧ symbol i < 0)) →
      step s = .next { s with
        base_r := e.base, len_r := e.len, err := 1, phase := .idle, busy := false, done := true }) ∧
    (s.cmd_r < s.params.nCmds →
      (e.len = 0 ∨ e.base + e.len ≤ s.params.symDepth) →
      (∀ i, i < e.len → 0 ≤ symbol i) →
      step s = .next { s with base_r := e.base, len_r := e.len, phase := .config })

/-- `phase` code 15 and a parameter set that is not well formed are refused by name (10_state.md R23; 00_scope.md R11; 93 U11, U13), by the step and, for the parameters, by every operation.
Well formed is `paramsOk`: R11 (a) to (e), the bound of R10 on `SYM_DEPTH`, and, DEDUCED from 10_state.md R22 and 30_encoding.md R73 (log 11), that `SYNC_PULSES` fits `sync_left`,
`REPEAT_DEFAULT` fits `rep_left` and a symbol word has its bit `neg`; a set that fails only these last is refused by the model, not by R11. -/
def Obligations.ReservedPhaseAndBadParametersAreRefused : Prop :=
  (∀ s : State, s.paramsOk = true → s.phase = .reserved → step s = .refused .reservedPhase) ∧
  (∀ (i : Instr) (s : State), i.wellFormed s.params.widths = true → s.paramsOk = false →
    exec i s = .refused .illFormedParameters ∧ step s = .refused .illFormedParameters)

/-! ## Whole-machine rules -/

/-- Every step keeps the invariant (10_state.md R34 with R22), from every state that has it. -/
def Obligations.StepKeepsTheInvariant : Prop :=
  ∀ s t : State, Invariant s → step s = .next t → Invariant t

/-- Every tick-level step keeps the invariant, so that it holds in every tick (10_state.md R34; 42_transmitter.md R121). -/
def Obligations.TickStepKeepsTheInvariant : Prop :=
  ∀ s t : State, Invariant s → tickStep s = .next t → Invariant t

/-- The invariant holds right after reset under every well-formed parameter set, and in `State.reset` itself, whose parameters are the model's choice (logs 2, 3). -/
def Obligations.InvariantHoldsAtReset : Prop :=
  (∀ (m : Memory) (p : Params), (State.resetWith m p).paramsOk = true → m.wf → Invariant (State.resetWith m p)) ∧
  Invariant State.reset

/-- 10_state.md R34 word for word, in every state reached from reset, at either level, under any stores, parameters, host inputs and driver answers. -/
def Obligations.ReachableStatesSatisfyTheStatedInvariants : Prop :=
  ∀ (m : Memory) (p : Params) (h : List HostIn) (a : List Answer) (n : Nat) (s : State),
    (State.resetWith m p).paramsOk = true → m.wf →
    (Sys2Proof.core.run n { State.resetWith m p with hostIn := h, answers := a } = .next s ∨
      tickRun n { State.resetWith m p with hostIn := h, answers := a } = .next s) →
    (s.busy = true ↔ s.phase ≠ .idle) ∧
    (s.tx_oe = true ↔ s.phase ∈ [Phase.hdrHi, .hdrHiW, .hdrLo, .hdrLoW, .hdrRes, .bodyHi, .bodyHiW, .bodyLo,
      .bodyLoW, .grpGap, .repGap, .release]) ∧
    (s.tx = true → s.phase ∈ [Phase.hdrHiW, .hdrLo, .bodyHiW, .bodyLo]) ∧
    (s.done = true → s.phase = .idle) ∧
    (s.err ≠ 0 → s.done = true ∨ s.phase = .release) ∧
    s.sym_idx ≤ s.len_r ∧ s.sync_left ≤ s.params.syncPulses

/-- From a state with the invariant the machine never stops, whatever the host presents and the driver answers (43_pin_driver_ops.md R146; 30_encoding.md R78: no reserved code is ever
reached). -/
def Obligations.SafeStatesNeverStop : Prop :=
  ∀ (n : Nat) (s : State), Invariant s → SafeFor n s

/-- One operation-level step is a whole number of tick-level steps, from every state (00_scope.md R13; 42_transmitter.md R121). -/
def Obligations.TickLevelRefinesOperationLevel : Prop :=
  ∀ s : State, ∃ n, tickRun (n + 1) s = step s

/-- No operation and no step, at either level, writes any of the three spaces (20_memory.md R54), nor a parameter. -/
def Obligations.StoresAreNeverWritten : Prop :=
  ∀ s t : State, (step s = .next t ∨ tickStep s = .next t ∨ ∃ i, exec i s = .next t) →
    t.mem = s.mem ∧ t.params = s.params

/-- The operands of a transmission are written by the accepted start and the lookup only (10_state.md R21); what is left to repeat only goes down, by one (R22). -/
def Obligations.OperandsStayLatched : Prop :=
  ∀ s t : State, NoReset s → s.phase ≠ .idle → step s = .next t →
    t.cmd_r = s.cmd_r ∧ (s.phase ≠ .validate → t.base_r = s.base_r ∧ t.len_r = s.len_r) ∧
    (t.rep_left = s.rep_left ∨ s.rep_left ≠ 0 ∧ t.rep_left = s.rep_left - 1)

/-- While a transmission is in progress no host input but `rst` has any effect (44_host_ops.md R155; 20_memory.md R65): two runs whose host words differ step alike. -/
def Obligations.HostWordsAreIgnoredWhileBusy : Prop :=
  ∀ (s t : State) (l : List HostIn), s.phase ≠ .idle → l.map HostIn.rst = s.hostIn.map HostIn.rst →
    step s = .next t →
    ∃ l', step { s with hostIn := l } = .next { t with hostIn := l' } ∧
      l'.map HostIn.rst = t.hostIn.map HostIn.rst

/-- `err` is written only by an accepted start and by the three errors, each in its own phases (60_exceptions.md R160; 10_state.md R27). -/
def Obligations.ErrIsWrittenOnlyByErrorsAndStarts : Prop :=
  ∀ s t : State, Invariant s → NoReset s → step s = .next t →
    t.err = s.err ∨
    (t.err = 0 ∧ s.phase = .idle ∧ t.phase = .validate) ∨
    (t.err = 1 ∧ s.phase = .validate ∧ t.phase = .idle ∧ t.done = true ∧ t.trace = s.trace) ∨
    (t.err = 2 ∧ s.phase ∈ [Phase.hdrHi, .hdrLo, .bodyHi, .bodyLo] ∧ t.phase = .release ∧ t.tx = false) ∨
    (t.err = 3 ∧ s.phase = .config ∧ t.phase = .idle ∧ t.done = true ∧ t.tx_oe = false)

/-- Only these steps end a transmission: a failed validation, a failed `Configure`, a `Release`; each sets `done` and clears `busy` (44_host_ops.md R153; 42_transmitter.md R127). -/
def Obligations.OnlyTheseStepsEndATransmission : Prop :=
  ∀ s t : State, Invariant s → NoReset s → s.phase ≠ .idle → step s = .next t → t.phase = .idle →
    t.done = true ∧ t.busy = false ∧
    (s.phase = .validate ∧ t.err = 1 ∨ s.phase = .config ∧ t.err = 3 ∨ s.phase = .release ∧ t.err = s.err)

/-- A pin that was acquired is given up only by a `Release` request, which ends the transmission (60_exceptions.md R166). -/
def Obligations.AcquiredPinIsGivenUpOnlyByRelease : Prop :=
  ∀ s t : State, Invariant s → NoReset s → s.tx_oe = true → step s = .next t → t.tx_oe = false →
    s.phase = .release ∧ t.phase = .idle ∧ t.drv_req = true ∧ t.drv_op = DrvOp.release.code ∧
    t.trace = s.trace ++ [.release]

/-- Every driver event shows on the port group as it happens, and no other step drives a request (10_state.md R29; 60_exceptions.md R176). How long `drv_req` then stays 1 is the model's choice
(log 21): here that no step but a driver's leaves it 1. -/
def Obligations.RequestsShowOnThePort : Prop :=
  ∀ s t : State, Invariant s → s.drv_req = false ∨ s.phase ≠ .validate → step s = .next t →
    (∀ op, s.phase.drvOp = some op → t.drv_req = true ∧ t.drv_op = op.code) ∧
    (s.phase.drvOp = none → t.drv_req = false)

/-- `tx` is the level of the trace (42_transmitter.md R124), step by step, as long as no reset comes. -/
def Obligations.TxIsTheLevelOfTheTrace : Prop :=
  ∀ s t : State, Invariant s → NoReset s → traceLevel s.trace = s.tx → step s = .next t → traceLevel t.trace = t.tx

/-! ## Transmissions -/

/-- `GROUP(n)` is what the symbol `n` does on the pin (42_transmitter.md R114; 41_encoder.md R108): its pulses take `4 (n + 1)` steps and their time, and then the group gap is due. -/
def Obligations.SymbolSendsItsGroup : Prop :=
  ∀ (n : Nat) (s : State), Invariant s → NoReset s → s.phase = .bodyHi → s.long_left = n →
    (∀ j, j < 2 * (n + 1) → s.failsAt j = false) →
    ∃ t, Sys2Proof.core.run (4 * (n + 1)) s = .next t ∧ t.phase = .grpGap ∧
      t.trace ++ [Event.wait s.mem.longOff] = s.trace ++ groupTrace s.mem n ∧
      t.edge + s.mem.longOff = s.edge + traceTicks (groupTrace s.mem n) ∧
      t.sym_idx = s.sym_idx ∧ t.rep_left = s.rep_left ∧ t.long_left = 0

/-- The step machine equals the functional trace (42_transmitter.md R128, R120, R111): for every well-formed parameter set, catalog, command, repeat count and sequence of driver answers, a
transmission that no reset cuts ends within the stated number of steps, returns to `IDLE` exactly then, and leaves the trace and the error of R120. A `Release` is
not marked whatever its answer (log 10). -/
def Obligations.MachineTraceIsTheFunctionalTrace : Prop :=
  ∀ s : State, Invariant s → NoReset s → s.phase = .validate →
    (∀ c : List Nat, s.catalog s.cmd_r = some (c.map Int.ofNat) →
      let full := transmitOk s.mem s.params.syncPulses c s.rep_left
      let out := cutTrace full ((List.range full.length).map s.failsAt)
      ∃ (n : Nat) (t : State),
        n ≤ 3 + s.rep_left * (4 * (s.params.syncPulses + (c.length + c.sum)) + c.length + 2) ∧
        Sys2Proof.core.run n s = .next t ∧ t.phase = .idle ∧
        (∀ k, k < n → ∃ u, Sys2Proof.core.run k s = .next u ∧ u.phase ≠ .idle) ∧
        t.trace = s.trace ++ out.1 ∧ t.err = errCode out.2 ∧
        t.done = true ∧ t.busy = false ∧ t.tx = false ∧ t.tx_oe = false) ∧
    ((∀ c : List Nat, s.catalog s.cmd_r ≠ some (c.map Int.ofNat)) →
      ∃ t, step s = .next t ∧ t.phase = .idle ∧ t.trace = s.trace ∧ t.err = 1 ∧
        t.done = true ∧ t.busy = false ∧ t.tx = false ∧ t.tx_oe = false)

/-- A transmission takes its set-up time and the waits of its trace, and no other time (42_transmitter.md R121). -/
def Obligations.TransmissionTakesOnlyItsWaits : Prop :=
  ∀ (s : State) (c : List Nat), Invariant s → NoReset s → s.phase = .validate →
    s.catalog s.cmd_r = some (c.map Int.ofNat) →
    let full := transmitOk s.mem s.params.syncPulses c s.rep_left
    let out := cutTrace full ((List.range full.length).map s.failsAt)
    ∃ (n : Nat) (t : State), Sys2Proof.core.run n s = .next t ∧ t.phase = .idle ∧
      (∀ k, k < n → ∃ u, Sys2Proof.core.run k s = .next u ∧ u.phase ≠ .idle) ∧
      t.edge = s.edge + s.setup_left + traceTicks out.1

/-- Zero repeats (42_transmitter.md R126): a valid command is acquired and released and nothing is sent; a failed `Configure` is `ResourceUnavailable`; an invalid command is
`InvalidCommand` with an empty trace. That the `Release` carries no mark whatever the driver answers to it is the model's reading (log 10, DEDUCED). -/
def Obligations.ZeroRepeatsSendNothing : Prop :=
  ∀ s : State, Invariant s → NoReset s → s.phase = .validate → s.rep_left = 0 →
    (∀ c : List Nat, s.catalog s.cmd_r = some (c.map Int.ofNat) →
      (s.failsAt 0 = false → ∃ t, Sys2Proof.core.run 3 s = .next t ∧ t.phase = .idle ∧
        t.trace = s.trace ++ [.configure, .release] ∧ t.done = true ∧ t.err = 0) ∧
      (s.failsAt 0 = true → ∃ t, Sys2Proof.core.run 2 s = .next t ∧ t.phase = .idle ∧
        t.trace = s.trace ++ [.req .configure true] ∧ t.done = true ∧ t.err = 3)) ∧
    ((∀ c : List Nat, s.catalog s.cmd_r ≠ some (c.map Int.ofNat)) →
      ∃ t, Sys2Proof.core.run 1 s = .next t ∧ t.phase = .idle ∧ t.trace = s.trace ∧ t.done = true ∧ t.err = 1)

/-- A failed `Release` is ignored (60_exceptions.md R167): the transmission ends as on `ok`, `err` keeps what it had, and this one `Release` is the only one, since the block is idle. -/
def Obligations.FailedReleaseIsIgnored : Prop :=
  ∀ s : State, s.paramsOk = true → s.nextAnswer = .fail → s.phase = .release →
    ∃ t, exec .release s = .next t ∧ step s = .next t ∧ t.tx = false ∧ t.tx_oe = false ∧
      t.phase = .idle ∧ t.busy = false ∧ t.done = true ∧ t.err = s.err ∧
      countReq .release t.trace = countReq .release s.trace + 1

/-! ## The tick level -/

/-- The timer (10_state.md R25): entering a wait loads it with the duration in no time; each tick of the wait counts it down by one and changes nothing else; the tick that brings it to 0 ends
the wait. That `drv_req` goes back to 0 when the wait is entered (log 21) and that the event is added at its end (log 7) are the model's choice. -/
def Obligations.TimerCountsDownOnePerTick : Prop :=
  ∀ (s : State) (d : Dsel), s.paramsOk = true → s.waitSel = some d →
    (s.tmr = 0 → s.mem.duration d ≠ 0 →
      tickStep s = .next { s with tmr := s.mem.duration d, drv_req := false }) ∧
    (1 < s.tmr → s.nextIn.rst = false →
      tickStep s = .next { s.later 1 with tmr := s.tmr - 1 }) ∧
    (s.tmr = 1 → s.nextIn.rst = false →
      tickStep s = { s.later 1 with tmr := 0, trace := s.trace ++ [Event.wait (s.mem.duration d)] }.advance)

/-! ## The encoder and the trace as functions -/

/-- The shape of `encode` (41_encoder.md R106): as many groups as integers, each of `c[i] + 1` pulses, the first `c[i]` long and the last short; in total `len(c) + sum` pulses. -/
def Obligations.EncodedCommandHasTheStatedShape : Prop :=
  ∀ c : List Nat, ∃ gs, encodeCommand (c.map Int.ofNat) = .ok gs ∧ gs.length = c.length ∧
    (∀ (i n : Nat), (c)[i]? = some n → ∃ g, gs[i]? = some g ∧ g.length = n + 1 ∧
      g.take n = List.replicate n .longOn ∧ g.getLast? = some .shortOn) ∧
    gs.flatten.length = c.length + c.sum

/-- `encode` fails with `InvalidCommand` exactly when an element is negative (41_encoder.md R100). -/
def Obligations.EncodeRejectsExactlyNegatives : Prop :=
  ∀ c : List Int, (encodeCommand c = .error .invalidCommand ↔ ∃ n ∈ c, n < 0) ∧
    ((∀ n ∈ c, 0 ≤ n) → encodeCommand c = .ok (c.map fun n => group n.toNat))

/-- The duration of one repeat (42_transmitter.md R122) is the sum of the waits of its trace. -/
def Obligations.UnitDurationIsTheStatedFormula : Prop :=
  ∀ (m : Memory) (syncPulses : Nat) (c : List Nat),
    traceTicks (unitTrace m syncPulses c) =
      syncPulses * (m.shortOn + m.shortOff) + m.hdrRes +
        (c.map fun n => n * m.longOn + m.shortOn + (n + 1) * m.shortOff + m.longOff).sum

/-- The duration of a whole transmission without failure (42_transmitter.md R123). -/
def Obligations.TotalDurationIsTheStatedFormula : Prop :=
  ∀ (m : Memory) (syncPulses : Nat) (c : List Nat) (r : Nat),
    traceTicks (transmitOk m syncPulses c 0) = 0 ∧
    traceTicks (transmitOk m syncPulses c (r + 1)) = (r + 1) * unitTicks m syncPulses c + r * m.repRes

/-- How often each request occurs (42_transmitter.md R125, 95_test_vectors.md C3): one `Configure`, one `Release`, and one `SetHigh` and one `SetLow` for each sync pulse and body pulse of each repeat. -/
def Obligations.TransmissionRequestCounts : Prop :=
  ∀ (m : Memory) (syncPulses : Nat) (c : List Nat) (r : Nat), let l := transmitOk m syncPulses c r
    countReq .configure l = 1 ∧ countReq .release l = 1 ∧
    countReq .setHigh l = r * (syncPulses + (c.length + c.sum)) ∧
    countReq .setLow l = r * (syncPulses + (c.length + c.sum))

/-- Under any answers a transmission makes one `Configure`, and one `Release` exactly when that `Configure` was answered `ok` (42_transmitter.md R120, R125; 60_exceptions.md R166); the release is its last event. A `Release`
is not marked whatever its answer (log 10). -/
def Obligations.ReleaseExactlyWhenAcquired : Prop :=
  ∀ (m : Memory) (syncPulses : Nat) (c : List Nat) (r : Nat) (a : List Bool),
    let l := (cutTrace (transmitOk m syncPulses c r) a).1
    countReq .configure l = 1 ∧
    (a.headD false = false → countReq .release l = 1 ∧ l.getLast? = some .release) ∧
    (a.headD false = true → countReq .release l = 0)

/-- The waveform of one repeat (42_transmitter.md R124), run by run, under a well-formed parameter set. -/
def Obligations.UnitWaveform : Prop :=
  ∀ (s : State) (c : List Nat), s.paramsOk = true →
    wave (unitTrace s.mem s.params.syncPulses c) =
      (List.replicate (s.params.syncPulses - 1) [Run.mk true s.mem.shortOn, ⟨false, s.mem.shortOff⟩]).flatten ++
      [⟨true, s.mem.shortOn⟩, ⟨false, s.mem.headerWait⟩] ++
      (c.map fun n =>
        (List.replicate n [Run.mk true s.mem.longOn, ⟨false, s.mem.shortOff⟩]).flatten ++
        [⟨true, s.mem.shortOn⟩, ⟨false, s.mem.shortOff + s.mem.longOff⟩]).flatten

/-! ## The widths -/

/-- Every register holds a value of its width, in every state reached from reset, at either level, under any widths, stores, parameters, host inputs and driver answers
(00_scope.md R10, R14; 10_state.md R21, R22, R25). -/
def Obligations.RegistersFitTheirWidths : Prop :=
  ∀ (m : Memory) (p : Params) (h : List HostIn) (a : List Answer) (n : Nat) (s : State),
    (State.resetWith m p).paramsOk = true → m.wf →
    (Sys2Proof.core.run n { State.resetWith m p with hostIn := h, answers := a } = .next s ∨
      tickRun n { State.resetWith m p with hostIn := h, answers := a } = .next s) →
    s.cmd_r < 2 ^ p.widths.idW ∧ s.base_r < 2 ^ p.widths.addrW ∧ s.len_r < 2 ^ p.widths.lenW ∧
    s.rep_left < 2 ^ p.widths.repW ∧ s.sync_left < 2 ^ p.widths.lenW ∧ s.sym_idx < 2 ^ p.widths.lenW ∧
    s.long_left < 2 ^ (p.widths.symW - 1) ∧ s.tmr < 2 ^ p.widths.tmrW
end

