-- ==== Sys2Proof/Laws/Memory.lean ====
section
/-! SUPPORT. The laws of the stores: a loaded word reads back, every other word reads as before, and the canonical form is kept, so
that equal stores are equal data. -/
namespace Sys2Proof.Machine.Store
variable (dflt : Nat)

/-- An address below every listed one reads as an unlisted word. -/
theorem read_of_lt (l : List (Nat × Nat)) (k : Nat) (h : ∀ p ∈ l, k < p.1) : read dflt l k = dflt := by
  induction l with
  | nil => rfl
  | cons p l ih =>
    have hp := h p (by simp)
    simp only [read, show p.1 ≠ k by omega, if_false]
    exact ih fun q hq => h q (by simp [hq])

theorem read_write_same (l : List (Nat × Nat)) (k : Nat) (v : Nat) (h : wf dflt l) :
    read dflt (write dflt l k v) k = v := by
  induction l with
  | nil => by_cases hv : v = dflt <;> simp [write, read, hv]
  | cons p l ih =>
    obtain ⟨a, u⟩ := p
    have hl : ∀ q ∈ l, a < q.1 := (List.pairwise_cons.mp h.1).1
    have ht : wf dflt l := ⟨(List.pairwise_cons.mp h.1).2, fun q hq => h.2 q (by simp [hq])⟩
    unfold write
    split
    · split
      · rename_i hk hv
        rw [hv, read_of_lt]
        simp only [List.mem_cons, forall_eq_or_imp]
        exact ⟨hk, fun q hq => Nat.lt_trans hk (hl q hq)⟩
      · simp [read]
    · split
      · rename_i hk
        split
        · rename_i hv
          rw [hv, read_of_lt]
          exact fun q hq => hk ▸ hl q hq
        · simp [read]
      · rename_i hk
        simp only [read, show a ≠ k from fun e => hk e.symm, if_false]
        exact ih ht

theorem read_write_other (l : List (Nat × Nat)) (k j : Nat) (v : Nat) (h : wf dflt l) (hj : j ≠ k) :
    read dflt (write dflt l k v) j = read dflt l j := by
  induction l with
  | nil => by_cases hv : v = dflt <;> simp [write, read, hv, Ne.symm hj]
  | cons p l ih =>
    obtain ⟨a, u⟩ := p
    have hl : ∀ q ∈ l, a < q.1 := (List.pairwise_cons.mp h.1).1
    have ht : wf dflt l := ⟨(List.pairwise_cons.mp h.1).2, fun q hq => h.2 q (by simp [hq])⟩
    unfold write
    split
    · split
      · rfl
      · simp [read, Ne.symm hj]
    · split
      · rename_i hk
        have ha : a ≠ j := fun e => hj (e.symm.trans hk.symm)
        split
        · simp [read, ha]
        · simp [read, Ne.symm hj, ha]
      · simp only [read]
        rw [ih ht]

/-- A word read is the default or a listed one. -/
theorem read_mem (l : List (Nat × Nat)) (k : Nat) : read dflt l k = dflt ∨ ∃ p ∈ l, p.2 = read dflt l k := by
  induction l with
  | nil => exact .inl rfl
  | cons p l ih =>
    by_cases h : p.1 = k
    · exact .inr ⟨p, by simp, by simp [read, h]⟩
    · simp only [read, if_neg h]
      exact ih.imp id fun ⟨q, hq, e⟩ => ⟨q, by simp [hq], e⟩

/-- Every listed address after a write is the written one or was listed before. -/
theorem mem_write (l : List (Nat × Nat)) (k : Nat) (v : Nat) (p : Nat × Nat)
    (hp : p ∈ write dflt l k v) : (p = (k, v) ∧ v ≠ dflt) ∨ p ∈ l := by
  induction l with
  | nil =>
    by_cases hv : v = dflt
    · simp [write, hv] at hp
    · simp only [write, hv, if_false, List.mem_singleton] at hp
      exact .inl ⟨hp, hv⟩
  | cons q l ih =>
    obtain ⟨a, u⟩ := q
    by_cases hv : v = dflt
    · unfold write at hp
      split at hp
      · simp_all
      · split at hp
        · simp_all
        · simp only [List.mem_cons] at hp ⊢
          rcases hp with hp | hp
          · exact .inr (.inl hp)
          · rcases ih hp with h | h
            · exact .inl h
            · exact .inr (.inr h)
    · unfold write at hp
      split at hp
      · simp_all
      · split at hp
        · simp only [List.mem_cons] at hp ⊢
          rcases hp with hp | hp
          · exact .inl ⟨hp, hv⟩
          · exact .inr (.inr hp)
        · simp only [List.mem_cons] at hp ⊢
          rcases hp with hp | hp
          · exact .inr (.inl hp)
          · rcases ih hp with h | h
            · exact .inl h
            · exact .inr (.inr h)

/-- A write keeps the canonical form. -/
theorem write_wf (l : List (Nat × Nat)) (k : Nat) (v : Nat) (h : wf dflt l) : wf dflt (write dflt l k v) := by
  refine ⟨?_, fun p hp => ?_⟩
  · induction l with
    | nil => by_cases hv : v = dflt <;> simp [write, hv]
    | cons q l ih =>
      obtain ⟨a, u⟩ := q
      have hl : ∀ q ∈ l, a < q.1 := (List.pairwise_cons.mp h.1).1
      have ht : wf dflt l := ⟨(List.pairwise_cons.mp h.1).2, fun q hq => h.2 q (by simp [hq])⟩
      unfold write
      split
      · rename_i hk
        split
        · exact h.1
        · refine List.pairwise_cons.mpr ⟨?_, h.1⟩
          simp only [List.mem_cons, forall_eq_or_imp]
          exact ⟨hk, fun q hq => Nat.lt_trans hk (hl q hq)⟩
      · split
        · rename_i hk
          split
          · exact ht.1
          · exact List.pairwise_cons.mpr ⟨fun q hq => hk ▸ hl q hq, ht.1⟩
        · rename_i hk hk'
          refine List.pairwise_cons.mpr ⟨fun q hq => ?_, ih ht⟩
          rcases mem_write dflt l k v q hq with ⟨rfl, -⟩ | hq
          · show a < k
            omega
          · exact hl q hq
  · rcases mem_write dflt l k v p hp with ⟨rfl, hv⟩ | hp
    · exact hv
    · exact h.2 p hp

end Sys2Proof.Machine.Store

namespace Sys2Proof.Machine.Memory

theorem empty_wf : Memory.empty.wf := by decide

theorem loadDir_wf (m : Memory) (i : Nat) (w : Nat) (h : m.wf) : (m.loadDir i w).wf :=
  ⟨Store.write_wf _ _ _ _ h.1, h.2.1, h.2.2⟩

theorem loadSym_wf (m : Memory) (a : Nat) (w : Nat) (h : m.wf) : (m.loadSym a w).wf :=
  ⟨h.1, Store.write_wf _ _ _ _ h.2.1, h.2.2⟩

theorem loadConst_wf (m : Memory) (k : Nat) (w : Nat) (h : m.wf) : (m.loadConst k w).wf :=
  ⟨h.1, h.2.1, Store.write_wf _ _ _ _ h.2.2⟩

/-- A loaded symbol word reads back; every other word, of any store, reads as before. -/
theorem readSym_loadSym (m : Memory) (a b : Nat) (w : Nat) (h : m.wf) :
    (m.loadSym a w).readSym b = if b = a then w else m.readSym b := by
  split
  · rename_i e
    rw [e]
    exact Store.read_write_same _ _ _ _ h.2.1
  · rename_i e
    exact Store.read_write_other _ _ _ _ _ h.2.1 e

theorem readConst_loadConst (m : Memory) (a b : Nat) (w : Nat) (h : m.wf) :
    (m.loadConst a w).readConst b = if b = a then w else m.readConst b := by
  split
  · rename_i e
    rw [e]
    exact Store.read_write_same _ _ _ _ h.2.2
  · rename_i e
    exact Store.read_write_other _ _ _ _ _ h.2.2 e

theorem readDir_loadDir (m : Memory) (W : Widths) (a b : Nat) (w : Nat) (h : m.wf) :
    (m.loadDir a w).readDir W b = if b = a then decodeDir W w else m.readDir W b := by
  split
  · rename_i e
    rw [e]
    exact congrArg (decodeDir W) (Store.read_write_same _ _ _ _ h.1)
  · rename_i e
    exact congrArg (decodeDir W) (Store.read_write_other _ _ _ _ _ h.1 e)

/-- The symbols of a command are as many as its length. -/
@[simp] theorem length_symbols (m : Memory) (a n : Nat) : (m.symbols a n).length = n := by
  induction n generalizing a with
  | zero => rfl
  | succ n ih => simp [symbols, ih]

/-- Symbol `i` of the command is the word at `base + i` (20_memory.md R52). -/
theorem getElem?_symbols (m : Memory) (a n i : Nat) (h : i < n) : (m.symbols a n)[i]? = some (m.readSym (a + i)) := by
  induction n generalizing a i with
  | zero => omega
  | succ n ih =>
    cases i with
    | zero => simp [symbols]
    | succ i => simp [symbols, ih (a + 1) i (by omega), Nat.add_comm, Nat.add_left_comm]

end Sys2Proof.Machine.Memory
end

