-- ==== Sys2Proof/Laws/State.lean ====
section
/-! SUPPORT. What each named update of the state does to each field: one lemma per field per update, true by unfolding, so that no
later proof unfolds a record update. -/
namespace Sys2Proof.Machine.State
variable (s : State)

@[simp] theorem emit_cmd_r (e : Event) : (s.emit e).cmd_r = s.cmd_r := rfl
@[simp] theorem emit_base_r (e : Event) : (s.emit e).base_r = s.base_r := rfl
@[simp] theorem emit_len_r (e : Event) : (s.emit e).len_r = s.len_r := rfl
@[simp] theorem emit_phase (e : Event) : (s.emit e).phase = s.phase := rfl
@[simp] theorem emit_rep_left (e : Event) : (s.emit e).rep_left = s.rep_left := rfl
@[simp] theorem emit_sync_left (e : Event) : (s.emit e).sync_left = s.sync_left := rfl
@[simp] theorem emit_sym_idx (e : Event) : (s.emit e).sym_idx = s.sym_idx := rfl
@[simp] theorem emit_long_left (e : Event) : (s.emit e).long_left = s.long_left := rfl
@[simp] theorem emit_tmr (e : Event) : (s.emit e).tmr = s.tmr := rfl
@[simp] theorem emit_tx (e : Event) : (s.emit e).tx = s.tx := rfl
@[simp] theorem emit_tx_oe (e : Event) : (s.emit e).tx_oe = s.tx_oe := rfl
@[simp] theorem emit_busy (e : Event) : (s.emit e).busy = s.busy := rfl
@[simp] theorem emit_done (e : Event) : (s.emit e).done = s.done := rfl
@[simp] theorem emit_err (e : Event) : (s.emit e).err = s.err := rfl
@[simp] theorem emit_drv_req (e : Event) : (s.emit e).drv_req = s.drv_req := rfl
@[simp] theorem emit_drv_op (e : Event) : (s.emit e).drv_op = s.drv_op := rfl
@[simp] theorem emit_mem (e : Event) : (s.emit e).mem = s.mem := rfl
@[simp] theorem emit_params (e : Event) : (s.emit e).params = s.params := rfl
@[simp] theorem emit_hostIn (e : Event) : (s.emit e).hostIn = s.hostIn := rfl
@[simp] theorem emit_answers (e : Event) : (s.emit e).answers = s.answers := rfl
@[simp] theorem emit_draws (e : Event) : (s.emit e).draws = s.draws := rfl
@[simp] theorem emit_setup_left (e : Event) : (s.emit e).setup_left = s.setup_left := rfl
@[simp] theorem emit_edge (e : Event) : (s.emit e).edge = s.edge := rfl
@[simp] theorem emit_trace (e : Event) : (s.emit e).trace = s.trace ++ [e] := rfl

@[simp] theorem clockEdge_cmd_r : (s.clockEdge).cmd_r = s.cmd_r := rfl
@[simp] theorem clockEdge_base_r : (s.clockEdge).base_r = s.base_r := rfl
@[simp] theorem clockEdge_len_r : (s.clockEdge).len_r = s.len_r := rfl
@[simp] theorem clockEdge_phase : (s.clockEdge).phase = s.phase := rfl
@[simp] theorem clockEdge_rep_left : (s.clockEdge).rep_left = s.rep_left := rfl
@[simp] theorem clockEdge_sync_left : (s.clockEdge).sync_left = s.sync_left := rfl
@[simp] theorem clockEdge_sym_idx : (s.clockEdge).sym_idx = s.sym_idx := rfl
@[simp] theorem clockEdge_long_left : (s.clockEdge).long_left = s.long_left := rfl
@[simp] theorem clockEdge_tmr : (s.clockEdge).tmr = s.tmr := rfl
@[simp] theorem clockEdge_tx : (s.clockEdge).tx = s.tx := rfl
@[simp] theorem clockEdge_tx_oe : (s.clockEdge).tx_oe = s.tx_oe := rfl
@[simp] theorem clockEdge_busy : (s.clockEdge).busy = s.busy := rfl
@[simp] theorem clockEdge_done : (s.clockEdge).done = s.done := rfl
@[simp] theorem clockEdge_err : (s.clockEdge).err = s.err := rfl
@[simp] theorem clockEdge_drv_req : (s.clockEdge).drv_req = false := rfl
@[simp] theorem clockEdge_drv_op : (s.clockEdge).drv_op = s.drv_op := rfl
@[simp] theorem clockEdge_mem : (s.clockEdge).mem = s.mem := rfl
@[simp] theorem clockEdge_params : (s.clockEdge).params = s.params := rfl
@[simp] theorem clockEdge_hostIn : (s.clockEdge).hostIn = s.hostIn.tail := rfl
@[simp] theorem clockEdge_answers : (s.clockEdge).answers = s.answers := rfl
@[simp] theorem clockEdge_draws : (s.clockEdge).draws = s.draws := rfl
@[simp] theorem clockEdge_setup_left : (s.clockEdge).setup_left = s.setup_left := rfl
@[simp] theorem clockEdge_edge : (s.clockEdge).edge = s.edge + 1 := rfl
@[simp] theorem clockEdge_trace : (s.clockEdge).trace = s.trace := rfl

@[simp] theorem toReset_cmd_r : (s.toReset).cmd_r = 0 := rfl
@[simp] theorem toReset_base_r : (s.toReset).base_r = 0 := rfl
@[simp] theorem toReset_len_r : (s.toReset).len_r = 0 := rfl
@[simp] theorem toReset_phase : (s.toReset).phase = .idle := rfl
@[simp] theorem toReset_rep_left : (s.toReset).rep_left = 0 := rfl
@[simp] theorem toReset_sync_left : (s.toReset).sync_left = 0 := rfl
@[simp] theorem toReset_sym_idx : (s.toReset).sym_idx = 0 := rfl
@[simp] theorem toReset_long_left : (s.toReset).long_left = 0 := rfl
@[simp] theorem toReset_tmr : (s.toReset).tmr = 0 := rfl
@[simp] theorem toReset_tx : (s.toReset).tx = false := rfl
@[simp] theorem toReset_tx_oe : (s.toReset).tx_oe = false := rfl
@[simp] theorem toReset_busy : (s.toReset).busy = false := rfl
@[simp] theorem toReset_done : (s.toReset).done = false := rfl
@[simp] theorem toReset_err : (s.toReset).err = 0 := rfl
@[simp] theorem toReset_drv_req : (s.toReset).drv_req = false := rfl
@[simp] theorem toReset_drv_op : (s.toReset).drv_op = 0 := rfl
@[simp] theorem toReset_mem : (s.toReset).mem = s.mem := rfl
@[simp] theorem toReset_params : (s.toReset).params = s.params := rfl
@[simp] theorem toReset_hostIn : (s.toReset).hostIn = s.hostIn := rfl
@[simp] theorem toReset_answers : (s.toReset).answers = s.answers := rfl
@[simp] theorem toReset_draws : (s.toReset).draws = s.draws := rfl
@[simp] theorem toReset_setup_left : (s.toReset).setup_left = 0 := rfl
@[simp] theorem toReset_edge : (s.toReset).edge = s.edge := rfl
@[simp] theorem toReset_trace : (s.toReset).trace = s.trace := rfl

@[simp] theorem finish_cmd_r : (s.finish).cmd_r = s.cmd_r := rfl
@[simp] theorem finish_base_r : (s.finish).base_r = s.base_r := rfl
@[simp] theorem finish_len_r : (s.finish).len_r = s.len_r := rfl
@[simp] theorem finish_phase : (s.finish).phase = .idle := rfl
@[simp] theorem finish_rep_left : (s.finish).rep_left = s.rep_left := rfl
@[simp] theorem finish_sync_left : (s.finish).sync_left = s.sync_left := rfl
@[simp] theorem finish_sym_idx : (s.finish).sym_idx = s.sym_idx := rfl
@[simp] theorem finish_long_left : (s.finish).long_left = s.long_left := rfl
@[simp] theorem finish_tmr : (s.finish).tmr = s.tmr := rfl
@[simp] theorem finish_tx : (s.finish).tx = s.tx := rfl
@[simp] theorem finish_tx_oe : (s.finish).tx_oe = s.tx_oe := rfl
@[simp] theorem finish_busy : (s.finish).busy = false := rfl
@[simp] theorem finish_done : (s.finish).done = true := rfl
@[simp] theorem finish_err : (s.finish).err = s.err := rfl
@[simp] theorem finish_drv_req : (s.finish).drv_req = s.drv_req := rfl
@[simp] theorem finish_drv_op : (s.finish).drv_op = s.drv_op := rfl
@[simp] theorem finish_mem : (s.finish).mem = s.mem := rfl
@[simp] theorem finish_params : (s.finish).params = s.params := rfl
@[simp] theorem finish_hostIn : (s.finish).hostIn = s.hostIn := rfl
@[simp] theorem finish_answers : (s.finish).answers = s.answers := rfl
@[simp] theorem finish_draws : (s.finish).draws = s.draws := rfl
@[simp] theorem finish_setup_left : (s.finish).setup_left = s.setup_left := rfl
@[simp] theorem finish_edge : (s.finish).edge = s.edge := rfl
@[simp] theorem finish_trace : (s.finish).trace = s.trace := rfl

@[simp] theorem startFlags_cmd_r : (s.startFlags).cmd_r = s.cmd_r := rfl
@[simp] theorem startFlags_base_r : (s.startFlags).base_r = s.base_r := rfl
@[simp] theorem startFlags_len_r : (s.startFlags).len_r = s.len_r := rfl
@[simp] theorem startFlags_phase : (s.startFlags).phase = s.phase := rfl
@[simp] theorem startFlags_rep_left : (s.startFlags).rep_left = s.rep_left := rfl
@[simp] theorem startFlags_sync_left : (s.startFlags).sync_left = s.sync_left := rfl
@[simp] theorem startFlags_sym_idx : (s.startFlags).sym_idx = s.sym_idx := rfl
@[simp] theorem startFlags_long_left : (s.startFlags).long_left = s.long_left := rfl
@[simp] theorem startFlags_tmr : (s.startFlags).tmr = s.tmr := rfl
@[simp] theorem startFlags_tx : (s.startFlags).tx = s.tx := rfl
@[simp] theorem startFlags_tx_oe : (s.startFlags).tx_oe = s.tx_oe := rfl
@[simp] theorem startFlags_busy : (s.startFlags).busy = true := rfl
@[simp] theorem startFlags_done : (s.startFlags).done = false := rfl
@[simp] theorem startFlags_err : (s.startFlags).err = 0 := rfl
@[simp] theorem startFlags_drv_req : (s.startFlags).drv_req = s.drv_req := rfl
@[simp] theorem startFlags_drv_op : (s.startFlags).drv_op = s.drv_op := rfl
@[simp] theorem startFlags_mem : (s.startFlags).mem = s.mem := rfl
@[simp] theorem startFlags_params : (s.startFlags).params = s.params := rfl
@[simp] theorem startFlags_hostIn : (s.startFlags).hostIn = s.hostIn := rfl
@[simp] theorem startFlags_answers : (s.startFlags).answers = s.answers := rfl
@[simp] theorem startFlags_draws : (s.startFlags).draws = s.draws := rfl
@[simp] theorem startFlags_setup_left : (s.startFlags).setup_left = s.setup_left := rfl
@[simp] theorem startFlags_edge : (s.startFlags).edge = s.edge := rfl
@[simp] theorem startFlags_trace : (s.startFlags).trace = s.trace := rfl

@[simp] theorem raise_invalidCommand_cmd_r : (s.raise .invalidCommand).cmd_r = s.cmd_r := rfl
@[simp] theorem raise_invalidCommand_base_r : (s.raise .invalidCommand).base_r = s.base_r := rfl
@[simp] theorem raise_invalidCommand_len_r : (s.raise .invalidCommand).len_r = s.len_r := rfl
@[simp] theorem raise_invalidCommand_phase : (s.raise .invalidCommand).phase = .idle := rfl
@[simp] theorem raise_invalidCommand_rep_left : (s.raise .invalidCommand).rep_left = s.rep_left := rfl
@[simp] theorem raise_invalidCommand_sync_left : (s.raise .invalidCommand).sync_left = s.sync_left := rfl
@[simp] theorem raise_invalidCommand_sym_idx : (s.raise .invalidCommand).sym_idx = s.sym_idx := rfl
@[simp] theorem raise_invalidCommand_long_left : (s.raise .invalidCommand).long_left = s.long_left := rfl
@[simp] theorem raise_invalidCommand_tmr : (s.raise .invalidCommand).tmr = s.tmr := rfl
@[simp] theorem raise_invalidCommand_tx : (s.raise .invalidCommand).tx = s.tx := rfl
@[simp] theorem raise_invalidCommand_tx_oe : (s.raise .invalidCommand).tx_oe = s.tx_oe := rfl
@[simp] theorem raise_invalidCommand_busy : (s.raise .invalidCommand).busy = false := rfl
@[simp] theorem raise_invalidCommand_done : (s.raise .invalidCommand).done = true := rfl
@[simp] theorem raise_invalidCommand_err : (s.raise .invalidCommand).err = 1 := rfl
@[simp] theorem raise_invalidCommand_drv_req : (s.raise .invalidCommand).drv_req = s.drv_req := rfl
@[simp] theorem raise_invalidCommand_drv_op : (s.raise .invalidCommand).drv_op = s.drv_op := rfl
@[simp] theorem raise_invalidCommand_mem : (s.raise .invalidCommand).mem = s.mem := rfl
@[simp] theorem raise_invalidCommand_params : (s.raise .invalidCommand).params = s.params := rfl
@[simp] theorem raise_invalidCommand_hostIn : (s.raise .invalidCommand).hostIn = s.hostIn := rfl
@[simp] theorem raise_invalidCommand_answers : (s.raise .invalidCommand).answers = s.answers := rfl
@[simp] theorem raise_invalidCommand_draws : (s.raise .invalidCommand).draws = s.draws := rfl
@[simp] theorem raise_invalidCommand_setup_left : (s.raise .invalidCommand).setup_left = s.setup_left := rfl
@[simp] theorem raise_invalidCommand_edge : (s.raise .invalidCommand).edge = s.edge := rfl
@[simp] theorem raise_invalidCommand_trace : (s.raise .invalidCommand).trace = s.trace := rfl

@[simp] theorem raise_resourceUnavailable_cmd_r : (s.raise .resourceUnavailable).cmd_r = s.cmd_r := rfl
@[simp] theorem raise_resourceUnavailable_base_r : (s.raise .resourceUnavailable).base_r = s.base_r := rfl
@[simp] theorem raise_resourceUnavailable_len_r : (s.raise .resourceUnavailable).len_r = s.len_r := rfl
@[simp] theorem raise_resourceUnavailable_phase : (s.raise .resourceUnavailable).phase = .idle := rfl
@[simp] theorem raise_resourceUnavailable_rep_left : (s.raise .resourceUnavailable).rep_left = s.rep_left := rfl
@[simp] theorem raise_resourceUnavailable_sync_left : (s.raise .resourceUnavailable).sync_left = s.sync_left := rfl
@[simp] theorem raise_resourceUnavailable_sym_idx : (s.raise .resourceUnavailable).sym_idx = s.sym_idx := rfl
@[simp] theorem raise_resourceUnavailable_long_left : (s.raise .resourceUnavailable).long_left = s.long_left := rfl
@[simp] theorem raise_resourceUnavailable_tmr : (s.raise .resourceUnavailable).tmr = s.tmr := rfl
@[simp] theorem raise_resourceUnavailable_tx : (s.raise .resourceUnavailable).tx = s.tx := rfl
@[simp] theorem raise_resourceUnavailable_tx_oe : (s.raise .resourceUnavailable).tx_oe = s.tx_oe := rfl
@[simp] theorem raise_resourceUnavailable_busy : (s.raise .resourceUnavailable).busy = false := rfl
@[simp] theorem raise_resourceUnavailable_done : (s.raise .resourceUnavailable).done = true := rfl
@[simp] theorem raise_resourceUnavailable_err : (s.raise .resourceUnavailable).err = 3 := rfl
@[simp] theorem raise_resourceUnavailable_drv_req : (s.raise .resourceUnavailable).drv_req = s.drv_req := rfl
@[simp] theorem raise_resourceUnavailable_drv_op : (s.raise .resourceUnavailable).drv_op = s.drv_op := rfl
@[simp] theorem raise_resourceUnavailable_mem : (s.raise .resourceUnavailable).mem = s.mem := rfl
@[simp] theorem raise_resourceUnavailable_params : (s.raise .resourceUnavailable).params = s.params := rfl
@[simp] theorem raise_resourceUnavailable_hostIn : (s.raise .resourceUnavailable).hostIn = s.hostIn := rfl
@[simp] theorem raise_resourceUnavailable_answers : (s.raise .resourceUnavailable).answers = s.answers := rfl
@[simp] theorem raise_resourceUnavailable_draws : (s.raise .resourceUnavailable).draws = s.draws := rfl
@[simp] theorem raise_resourceUnavailable_setup_left : (s.raise .resourceUnavailable).setup_left = s.setup_left := rfl
@[simp] theorem raise_resourceUnavailable_edge : (s.raise .resourceUnavailable).edge = s.edge := rfl
@[simp] theorem raise_resourceUnavailable_trace : (s.raise .resourceUnavailable).trace = s.trace := rfl

@[simp] theorem raise_driverFault_cmd_r : (s.raise .driverFault).cmd_r = s.cmd_r := rfl
@[simp] theorem raise_driverFault_base_r : (s.raise .driverFault).base_r = s.base_r := rfl
@[simp] theorem raise_driverFault_len_r : (s.raise .driverFault).len_r = s.len_r := rfl
@[simp] theorem raise_driverFault_phase : (s.raise .driverFault).phase = .release := rfl
@[simp] theorem raise_driverFault_rep_left : (s.raise .driverFault).rep_left = s.rep_left := rfl
@[simp] theorem raise_driverFault_sync_left : (s.raise .driverFault).sync_left = s.sync_left := rfl
@[simp] theorem raise_driverFault_sym_idx : (s.raise .driverFault).sym_idx = s.sym_idx := rfl
@[simp] theorem raise_driverFault_long_left : (s.raise .driverFault).long_left = s.long_left := rfl
@[simp] theorem raise_driverFault_tmr : (s.raise .driverFault).tmr = s.tmr := rfl
@[simp] theorem raise_driverFault_tx : (s.raise .driverFault).tx = false := rfl
@[simp] theorem raise_driverFault_tx_oe : (s.raise .driverFault).tx_oe = s.tx_oe := rfl
@[simp] theorem raise_driverFault_busy : (s.raise .driverFault).busy = s.busy := rfl
@[simp] theorem raise_driverFault_done : (s.raise .driverFault).done = s.done := rfl
@[simp] theorem raise_driverFault_err : (s.raise .driverFault).err = 2 := rfl
@[simp] theorem raise_driverFault_drv_req : (s.raise .driverFault).drv_req = s.drv_req := rfl
@[simp] theorem raise_driverFault_drv_op : (s.raise .driverFault).drv_op = s.drv_op := rfl
@[simp] theorem raise_driverFault_mem : (s.raise .driverFault).mem = s.mem := rfl
@[simp] theorem raise_driverFault_params : (s.raise .driverFault).params = s.params := rfl
@[simp] theorem raise_driverFault_hostIn : (s.raise .driverFault).hostIn = s.hostIn := rfl
@[simp] theorem raise_driverFault_answers : (s.raise .driverFault).answers = s.answers := rfl
@[simp] theorem raise_driverFault_draws : (s.raise .driverFault).draws = s.draws := rfl
@[simp] theorem raise_driverFault_setup_left : (s.raise .driverFault).setup_left = s.setup_left := rfl
@[simp] theorem raise_driverFault_edge : (s.raise .driverFault).edge = s.edge := rfl
@[simp] theorem raise_driverFault_trace : (s.raise .driverFault).trace = s.trace := rfl

@[simp] theorem enterWait_cmd_r (d : Dsel) : (s.enterWait d).cmd_r = s.cmd_r := rfl
@[simp] theorem enterWait_base_r (d : Dsel) : (s.enterWait d).base_r = s.base_r := rfl
@[simp] theorem enterWait_len_r (d : Dsel) : (s.enterWait d).len_r = s.len_r := rfl
@[simp] theorem enterWait_phase (d : Dsel) : (s.enterWait d).phase = s.phase := rfl
@[simp] theorem enterWait_rep_left (d : Dsel) : (s.enterWait d).rep_left = s.rep_left := rfl
@[simp] theorem enterWait_sync_left (d : Dsel) : (s.enterWait d).sync_left = s.sync_left := rfl
@[simp] theorem enterWait_sym_idx (d : Dsel) : (s.enterWait d).sym_idx = s.sym_idx := rfl
@[simp] theorem enterWait_long_left (d : Dsel) : (s.enterWait d).long_left = s.long_left := rfl
@[simp] theorem enterWait_tmr (d : Dsel) : (s.enterWait d).tmr = s.mem.duration d := rfl
@[simp] theorem enterWait_tx (d : Dsel) : (s.enterWait d).tx = s.tx := rfl
@[simp] theorem enterWait_tx_oe (d : Dsel) : (s.enterWait d).tx_oe = s.tx_oe := rfl
@[simp] theorem enterWait_busy (d : Dsel) : (s.enterWait d).busy = s.busy := rfl
@[simp] theorem enterWait_done (d : Dsel) : (s.enterWait d).done = s.done := rfl
@[simp] theorem enterWait_err (d : Dsel) : (s.enterWait d).err = s.err := rfl
@[simp] theorem enterWait_drv_req (d : Dsel) : (s.enterWait d).drv_req = false := rfl
@[simp] theorem enterWait_drv_op (d : Dsel) : (s.enterWait d).drv_op = s.drv_op := rfl
@[simp] theorem enterWait_mem (d : Dsel) : (s.enterWait d).mem = s.mem := rfl
@[simp] theorem enterWait_params (d : Dsel) : (s.enterWait d).params = s.params := rfl
@[simp] theorem enterWait_hostIn (d : Dsel) : (s.enterWait d).hostIn = s.hostIn := rfl
@[simp] theorem enterWait_answers (d : Dsel) : (s.enterWait d).answers = s.answers := rfl
@[simp] theorem enterWait_draws (d : Dsel) : (s.enterWait d).draws = s.draws := rfl
@[simp] theorem enterWait_setup_left (d : Dsel) : (s.enterWait d).setup_left = s.setup_left := rfl
@[simp] theorem enterWait_edge (d : Dsel) : (s.enterWait d).edge = s.edge := rfl
@[simp] theorem enterWait_trace (d : Dsel) : (s.enterWait d).trace = s.trace := rfl

@[simp] theorem waitDone_cmd_r (d : Dsel) : (s.waitDone d).cmd_r = s.cmd_r := rfl
@[simp] theorem waitDone_base_r (d : Dsel) : (s.waitDone d).base_r = s.base_r := rfl
@[simp] theorem waitDone_len_r (d : Dsel) : (s.waitDone d).len_r = s.len_r := rfl
@[simp] theorem waitDone_phase (d : Dsel) : (s.waitDone d).phase = s.phase := rfl
@[simp] theorem waitDone_rep_left (d : Dsel) : (s.waitDone d).rep_left = s.rep_left := rfl
@[simp] theorem waitDone_sync_left (d : Dsel) : (s.waitDone d).sync_left = s.sync_left := rfl
@[simp] theorem waitDone_sym_idx (d : Dsel) : (s.waitDone d).sym_idx = s.sym_idx := rfl
@[simp] theorem waitDone_long_left (d : Dsel) : (s.waitDone d).long_left = s.long_left := rfl
@[simp] theorem waitDone_tmr (d : Dsel) : (s.waitDone d).tmr = s.tmr := rfl
@[simp] theorem waitDone_tx (d : Dsel) : (s.waitDone d).tx = s.tx := rfl
@[simp] theorem waitDone_tx_oe (d : Dsel) : (s.waitDone d).tx_oe = s.tx_oe := rfl
@[simp] theorem waitDone_busy (d : Dsel) : (s.waitDone d).busy = s.busy := rfl
@[simp] theorem waitDone_done (d : Dsel) : (s.waitDone d).done = s.done := rfl
@[simp] theorem waitDone_err (d : Dsel) : (s.waitDone d).err = s.err := rfl
@[simp] theorem waitDone_drv_req (d : Dsel) : (s.waitDone d).drv_req = s.drv_req := rfl
@[simp] theorem waitDone_drv_op (d : Dsel) : (s.waitDone d).drv_op = s.drv_op := rfl
@[simp] theorem waitDone_mem (d : Dsel) : (s.waitDone d).mem = s.mem := rfl
@[simp] theorem waitDone_params (d : Dsel) : (s.waitDone d).params = s.params := rfl
@[simp] theorem waitDone_hostIn (d : Dsel) : (s.waitDone d).hostIn = s.hostIn := rfl
@[simp] theorem waitDone_answers (d : Dsel) : (s.waitDone d).answers = s.answers := rfl
@[simp] theorem waitDone_draws (d : Dsel) : (s.waitDone d).draws = s.draws := rfl
@[simp] theorem waitDone_setup_left (d : Dsel) : (s.waitDone d).setup_left = s.setup_left := rfl
@[simp] theorem waitDone_edge (d : Dsel) : (s.waitDone d).edge = s.edge := rfl
@[simp] theorem waitDone_trace (d : Dsel) : (s.waitDone d).trace = s.trace ++ [.wait (s.mem.duration d)] := rfl

@[simp] theorem acceptStart_cmd_r (rep cmd : Nat) : (s.acceptStart rep cmd).cmd_r = cmd := rfl
@[simp] theorem acceptStart_base_r (rep cmd : Nat) : (s.acceptStart rep cmd).base_r = s.base_r := rfl
@[simp] theorem acceptStart_len_r (rep cmd : Nat) : (s.acceptStart rep cmd).len_r = s.len_r := rfl
@[simp] theorem acceptStart_phase (rep cmd : Nat) : (s.acceptStart rep cmd).phase = .validate := rfl
@[simp] theorem acceptStart_rep_left (rep cmd : Nat) : (s.acceptStart rep cmd).rep_left = rep := rfl
@[simp] theorem acceptStart_sync_left (rep cmd : Nat) : (s.acceptStart rep cmd).sync_left = 0 := rfl
@[simp] theorem acceptStart_sym_idx (rep cmd : Nat) : (s.acceptStart rep cmd).sym_idx = 0 := rfl
@[simp] theorem acceptStart_long_left (rep cmd : Nat) : (s.acceptStart rep cmd).long_left = 0 := rfl
@[simp] theorem acceptStart_tmr (rep cmd : Nat) : (s.acceptStart rep cmd).tmr = s.tmr := rfl
@[simp] theorem acceptStart_tx (rep cmd : Nat) : (s.acceptStart rep cmd).tx = s.tx := rfl
@[simp] theorem acceptStart_tx_oe (rep cmd : Nat) : (s.acceptStart rep cmd).tx_oe = s.tx_oe := rfl
@[simp] theorem acceptStart_busy (rep cmd : Nat) : (s.acceptStart rep cmd).busy = true := rfl
@[simp] theorem acceptStart_done (rep cmd : Nat) : (s.acceptStart rep cmd).done = false := rfl
@[simp] theorem acceptStart_err (rep cmd : Nat) : (s.acceptStart rep cmd).err = 0 := rfl
@[simp] theorem acceptStart_drv_req (rep cmd : Nat) : (s.acceptStart rep cmd).drv_req = s.drv_req := rfl
@[simp] theorem acceptStart_drv_op (rep cmd : Nat) : (s.acceptStart rep cmd).drv_op = s.drv_op := rfl
@[simp] theorem acceptStart_mem (rep cmd : Nat) : (s.acceptStart rep cmd).mem = s.mem := rfl
@[simp] theorem acceptStart_params (rep cmd : Nat) : (s.acceptStart rep cmd).params = s.params := rfl
@[simp] theorem acceptStart_hostIn (rep cmd : Nat) : (s.acceptStart rep cmd).hostIn = s.hostIn := rfl
@[simp] theorem acceptStart_answers (rep cmd : Nat) : (s.acceptStart rep cmd).answers = s.answers := rfl
@[simp] theorem acceptStart_draws (rep cmd : Nat) : (s.acceptStart rep cmd).draws = s.draws + 1 := rfl
@[simp] theorem acceptStart_setup_left (rep cmd : Nat) : (s.acceptStart rep cmd).setup_left = Config.setupTicks s.draws := rfl
@[simp] theorem acceptStart_edge (rep cmd : Nat) : (s.acceptStart rep cmd).edge = s.edge := rfl
@[simp] theorem acceptStart_trace (rep cmd : Nat) : (s.acceptStart rep cmd).trace = s.trace := rfl

@[simp] theorem hdrStart_cmd_r : (s.hdrStart).cmd_r = s.cmd_r := rfl
@[simp] theorem hdrStart_base_r : (s.hdrStart).base_r = s.base_r := rfl
@[simp] theorem hdrStart_len_r : (s.hdrStart).len_r = s.len_r := rfl
@[simp] theorem hdrStart_phase : (s.hdrStart).phase = .hdrHi := rfl
@[simp] theorem hdrStart_rep_left : (s.hdrStart).rep_left = s.rep_left := rfl
@[simp] theorem hdrStart_sync_left : (s.hdrStart).sync_left = BitVec.ofNat 8 s.params.syncPulses := rfl
@[simp] theorem hdrStart_sym_idx : (s.hdrStart).sym_idx = s.sym_idx := rfl
@[simp] theorem hdrStart_long_left : (s.hdrStart).long_left = s.long_left := rfl
@[simp] theorem hdrStart_tmr : (s.hdrStart).tmr = s.tmr := rfl
@[simp] theorem hdrStart_tx : (s.hdrStart).tx = s.tx := rfl
@[simp] theorem hdrStart_tx_oe : (s.hdrStart).tx_oe = s.tx_oe := rfl
@[simp] theorem hdrStart_busy : (s.hdrStart).busy = s.busy := rfl
@[simp] theorem hdrStart_done : (s.hdrStart).done = s.done := rfl
@[simp] theorem hdrStart_err : (s.hdrStart).err = s.err := rfl
@[simp] theorem hdrStart_drv_req : (s.hdrStart).drv_req = s.drv_req := rfl
@[simp] theorem hdrStart_drv_op : (s.hdrStart).drv_op = s.drv_op := rfl
@[simp] theorem hdrStart_mem : (s.hdrStart).mem = s.mem := rfl
@[simp] theorem hdrStart_params : (s.hdrStart).params = s.params := rfl
@[simp] theorem hdrStart_hostIn : (s.hdrStart).hostIn = s.hostIn := rfl
@[simp] theorem hdrStart_answers : (s.hdrStart).answers = s.answers := rfl
@[simp] theorem hdrStart_draws : (s.hdrStart).draws = s.draws := rfl
@[simp] theorem hdrStart_setup_left : (s.hdrStart).setup_left = s.setup_left := rfl
@[simp] theorem hdrStart_edge : (s.hdrStart).edge = s.edge := rfl
@[simp] theorem hdrStart_trace : (s.hdrStart).trace = s.trace := rfl

@[simp] theorem later_cmd_r (n : Nat) : (s.later n).cmd_r = s.cmd_r := rfl
@[simp] theorem later_base_r (n : Nat) : (s.later n).base_r = s.base_r := rfl
@[simp] theorem later_len_r (n : Nat) : (s.later n).len_r = s.len_r := rfl
@[simp] theorem later_phase (n : Nat) : (s.later n).phase = s.phase := rfl
@[simp] theorem later_rep_left (n : Nat) : (s.later n).rep_left = s.rep_left := rfl
@[simp] theorem later_sync_left (n : Nat) : (s.later n).sync_left = s.sync_left := rfl
@[simp] theorem later_sym_idx (n : Nat) : (s.later n).sym_idx = s.sym_idx := rfl
@[simp] theorem later_long_left (n : Nat) : (s.later n).long_left = s.long_left := rfl
@[simp] theorem later_tmr (n : Nat) : (s.later n).tmr = s.tmr := rfl
@[simp] theorem later_tx (n : Nat) : (s.later n).tx = s.tx := rfl
@[simp] theorem later_tx_oe (n : Nat) : (s.later n).tx_oe = s.tx_oe := rfl
@[simp] theorem later_busy (n : Nat) : (s.later n).busy = s.busy := rfl
@[simp] theorem later_done (n : Nat) : (s.later n).done = s.done := rfl
@[simp] theorem later_err (n : Nat) : (s.later n).err = s.err := rfl
@[simp] theorem later_drv_req (n : Nat) : (s.later n).drv_req = false := rfl
@[simp] theorem later_drv_op (n : Nat) : (s.later n).drv_op = s.drv_op := rfl
@[simp] theorem later_mem (n : Nat) : (s.later n).mem = s.mem := rfl
@[simp] theorem later_params (n : Nat) : (s.later n).params = s.params := rfl
@[simp] theorem later_hostIn (n : Nat) : (s.later n).hostIn = s.hostIn.drop n := rfl
@[simp] theorem later_answers (n : Nat) : (s.later n).answers = s.answers := rfl
@[simp] theorem later_draws (n : Nat) : (s.later n).draws = s.draws := rfl
@[simp] theorem later_setup_left (n : Nat) : (s.later n).setup_left = s.setup_left := rfl
@[simp] theorem later_edge (n : Nat) : (s.later n).edge = s.edge + n := rfl
@[simp] theorem later_trace (n : Nat) : (s.later n).trace = s.trace := rfl

@[simp] theorem afterWait_cmd_r (d : Dsel) : (s.afterWait d).cmd_r = s.cmd_r := rfl
@[simp] theorem afterWait_base_r (d : Dsel) : (s.afterWait d).base_r = s.base_r := rfl
@[simp] theorem afterWait_len_r (d : Dsel) : (s.afterWait d).len_r = s.len_r := rfl
@[simp] theorem afterWait_phase (d : Dsel) : (s.afterWait d).phase = s.phase := rfl
@[simp] theorem afterWait_rep_left (d : Dsel) : (s.afterWait d).rep_left = s.rep_left := rfl
@[simp] theorem afterWait_sync_left (d : Dsel) : (s.afterWait d).sync_left = s.sync_left := rfl
@[simp] theorem afterWait_sym_idx (d : Dsel) : (s.afterWait d).sym_idx = s.sym_idx := rfl
@[simp] theorem afterWait_long_left (d : Dsel) : (s.afterWait d).long_left = s.long_left := rfl
@[simp] theorem afterWait_tmr (d : Dsel) : (s.afterWait d).tmr = 0 := rfl
@[simp] theorem afterWait_tx (d : Dsel) : (s.afterWait d).tx = s.tx := rfl
@[simp] theorem afterWait_tx_oe (d : Dsel) : (s.afterWait d).tx_oe = s.tx_oe := rfl
@[simp] theorem afterWait_busy (d : Dsel) : (s.afterWait d).busy = s.busy := rfl
@[simp] theorem afterWait_done (d : Dsel) : (s.afterWait d).done = s.done := rfl
@[simp] theorem afterWait_err (d : Dsel) : (s.afterWait d).err = s.err := rfl
@[simp] theorem afterWait_drv_req (d : Dsel) : (s.afterWait d).drv_req = false := rfl
@[simp] theorem afterWait_drv_op (d : Dsel) : (s.afterWait d).drv_op = s.drv_op := rfl
@[simp] theorem afterWait_mem (d : Dsel) : (s.afterWait d).mem = s.mem := rfl
@[simp] theorem afterWait_params (d : Dsel) : (s.afterWait d).params = s.params := rfl
@[simp] theorem afterWait_hostIn (d : Dsel) : (s.afterWait d).hostIn = s.hostIn.drop (s.mem.duration d) := rfl
@[simp] theorem afterWait_answers (d : Dsel) : (s.afterWait d).answers = s.answers := rfl
@[simp] theorem afterWait_draws (d : Dsel) : (s.afterWait d).draws = s.draws := rfl
@[simp] theorem afterWait_setup_left (d : Dsel) : (s.afterWait d).setup_left = s.setup_left := rfl
@[simp] theorem afterWait_edge (d : Dsel) : (s.afterWait d).edge = s.edge + s.mem.duration d := rfl
@[simp] theorem afterWait_trace (d : Dsel) : (s.afterWait d).trace = s.trace ++ [.wait (s.mem.duration d)] := rfl

@[simp] theorem request_cmd_r (op : DrvOp) : (s.request op).cmd_r = s.cmd_r := rfl
@[simp] theorem request_base_r (op : DrvOp) : (s.request op).base_r = s.base_r := rfl
@[simp] theorem request_len_r (op : DrvOp) : (s.request op).len_r = s.len_r := rfl
@[simp] theorem request_phase (op : DrvOp) : (s.request op).phase = s.phase := rfl
@[simp] theorem request_rep_left (op : DrvOp) : (s.request op).rep_left = s.rep_left := rfl
@[simp] theorem request_sync_left (op : DrvOp) : (s.request op).sync_left = s.sync_left := rfl
@[simp] theorem request_sym_idx (op : DrvOp) : (s.request op).sym_idx = s.sym_idx := rfl
@[simp] theorem request_long_left (op : DrvOp) : (s.request op).long_left = s.long_left := rfl
@[simp] theorem request_tmr (op : DrvOp) : (s.request op).tmr = s.tmr := rfl
@[simp] theorem request_tx (op : DrvOp) : (s.request op).tx = s.tx := rfl
@[simp] theorem request_tx_oe (op : DrvOp) : (s.request op).tx_oe = s.tx_oe := rfl
@[simp] theorem request_busy (op : DrvOp) : (s.request op).busy = s.busy := rfl
@[simp] theorem request_done (op : DrvOp) : (s.request op).done = s.done := rfl
@[simp] theorem request_err (op : DrvOp) : (s.request op).err = s.err := rfl
@[simp] theorem request_drv_req (op : DrvOp) : (s.request op).drv_req = true := rfl
@[simp] theorem request_drv_op (op : DrvOp) : (s.request op).drv_op = op.code := rfl
@[simp] theorem request_mem (op : DrvOp) : (s.request op).mem = s.mem := rfl
@[simp] theorem request_params (op : DrvOp) : (s.request op).params = s.params := rfl
@[simp] theorem request_hostIn (op : DrvOp) : (s.request op).hostIn = s.hostIn := rfl
@[simp] theorem request_answers (op : DrvOp) : (s.request op).answers = s.answers.tail := rfl
@[simp] theorem request_draws (op : DrvOp) : (s.request op).draws = if s.answers = [] then s.draws + 1 else s.draws := rfl
@[simp] theorem request_setup_left (op : DrvOp) : (s.request op).setup_left = s.setup_left := rfl
@[simp] theorem request_edge (op : DrvOp) : (s.request op).edge = s.edge := rfl
@[simp] theorem request_trace (op : DrvOp) : (s.request op).trace = s.trace := rfl

end Sys2Proof.Machine.State
end

