-- ==== Sys2Proof/Laws/Ops.lean ====
section
/-! SUPPORT. What each shared operation can do, said once. Proofs about the meanings and the step cite these and do not unfold the operations. -/
namespace Sys2Proof.Machine

/-- The well-formedness of the parameters depends on the stores and the parameters alone. -/
theorem State.paramsOk_congr {s t : State} (hm : t.mem = s.mem) (hp : t.params = s.params) :
    t.paramsOk = s.paramsOk := by
  simp only [State.paramsOk, hm, hp]

theorem gated_ok {s : State} (t : State) (h : s.paramsOk = true) : gated s t = .next t := by
  simp [gated, h]

theorem gated_bad {s : State} (t : State) (h : s.paramsOk = false) : gated s t = .refused .illFormedParameters := by
  simp [gated, h]

@[simp] theorem andThen_next (t : State) (k : State → Result) : andThen (.next t) k = k t := rfl
@[simp] theorem andThen_fault (f : Fault) (k : State → Result) : andThen (.fault f) k = .fault f := rfl
@[simp] theorem andThen_refused (r : Refusal) (k : State → Result) : andThen (.refused r) k = .refused r := rfl

theorem encodable_ok {i : Instr} {s : State} (t : State) (hi : i.wellFormed s.params.widths = true)
    (h : s.paramsOk = true) : encodable i s t = .next t := by
  simp [encodable, hi, gated_ok _ h]

theorem encodable_bad {i : Instr} {s : State} (t : State) (hi : i.wellFormed s.params.widths = true)
    (h : s.paramsOk = false) : encodable i s t = .refused .illFormedParameters := by
  simp [encodable, hi, gated_bad _ h]

theorem encodable_illFormed {i : Instr} {s : State} (t : State) (hi : i.wellFormed s.params.widths = false) :
    encodable i s t = .refused .illFormedInstruction := by
  simp [encodable, hi]

/-- What a well-formed parameter set says, condition by condition (00_scope.md R10, R11; log 11). -/
theorem State.paramsOk_iff {s : State} : s.paramsOk = true ↔
    (1 ≤ s.mem.shortOn ∧ 1 ≤ s.mem.longOn ∧ 1 ≤ s.mem.shortOff ∧ 1 ≤ s.mem.longOff ∧ 1 ≤ s.mem.headerWait ∧
      1 ≤ s.mem.sendWait) ∧
    (s.mem.shortOff ≤ s.mem.headerWait ∧ s.mem.shortOff ≤ s.mem.sendWait) ∧
    1 ≤ s.params.syncPulses ∧
    (s.mem.shortOn < 2 ^ s.params.widths.tmrW ∧ s.mem.longOn < 2 ^ s.params.widths.tmrW ∧
      s.mem.shortOff < 2 ^ s.params.widths.tmrW ∧ s.mem.longOff < 2 ^ s.params.widths.tmrW ∧
      s.mem.headerWait < 2 ^ s.params.widths.tmrW ∧ s.mem.sendWait < 2 ^ s.params.widths.tmrW) ∧
    (s.params.nCmds ≤ 2 ^ s.params.widths.idW ∧ (∀ p ∈ s.mem.dir, p.2 < 2 ^ Format.D.width s.params.widths) ∧
      ∀ p ∈ s.mem.sym, p.2 < 2 ^ Format.S.width s.params.widths) ∧
    s.params.symDepth ≤ 2 ^ s.params.widths.addrW ∧
    s.params.widths.ok = true ∧ s.params.syncPulses < 2 ^ s.params.widths.lenW :=
  decide_eq_true_iff

/-- Every duration fits the timer (00_scope.md R11d). -/
theorem State.duration_lt {s : State} (hp : s.paramsOk = true) (d : Dsel) :
    s.mem.duration d < 2 ^ s.params.widths.tmrW := by
  obtain ⟨-, -, -, ⟨h0, h1, h2, h3, h4, h5⟩, -⟩ := State.paramsOk_iff.mp hp
  cases d
  · exact h0
  · exact h1
  · exact h2
  · exact h3
  · exact Nat.lt_of_le_of_lt (Nat.sub_le _ _) h4
  · exact Nat.lt_of_le_of_lt (Nat.sub_le _ _) h5

/-- Every symbol word fits its width (00_scope.md R11e). -/
theorem State.readSym_lt {s : State} (hp : s.paramsOk = true) (a : Nat) :
    s.mem.readSym a < 2 ^ s.params.widths.symW := by
  obtain ⟨-, -, -, -, ⟨-, -, hs⟩, -⟩ := State.paramsOk_iff.mp hp
  rcases Store.read_mem Memory.symDefault s.mem.sym a with e | ⟨p, hm, e⟩
  · rw [Memory.readSym, e]
    exact Nat.two_pow_pos _
  · rw [Memory.readSym, ← e]
    exact hs p hm

/-- A slice is below its width. -/
theorem slice_lt (v lo n : Nat) : slice v lo n < 2 ^ n := Nat.mod_lt _ (Nat.two_pow_pos _)

/-- A meaning over `requestOr`, driver's answer by driver's answer. -/
theorem State.requestOr_ok {s : State} (op : DrvOp) (f : State → State) (e : ErrKind) (h : s.nextAnswer = .ok) :
    s.requestOr op f e = f ((s.request op).emit (.req op false)) := by
  simp [State.requestOr, h]

theorem State.requestOr_fail {s : State} (op : DrvOp) (f : State → State) (e : ErrKind) (h : s.nextAnswer = .fail) :
    s.requestOr op f e = ((s.request op).emit (.req op true)).raise e := by
  simp [State.requestOr, h]

theorem State.nextAnswer_cases (s : State) : s.nextAnswer = .ok ∨ s.nextAnswer = .fail := by
  cases s.nextAnswer <;> simp

/-! ## Stretches of ticks -/

/-- The inputs of the next edge, when the edges ahead are split off one. -/
theorem State.noResetWithin_succ {n : Nat} {s : State} :
    NoResetWithin (n + 1) s ↔ s.nextIn.rst = false ∧ ∀ h ∈ s.hostIn.tail.take n, h.rst = false := by
  cases hs : s.hostIn <;> simp [NoResetWithin, State.nextIn, hs]

theorem NoReset.within {s : State} (h : NoReset s) (n : Nat) : NoResetWithin n s :=
  fun x hx => h x (List.mem_of_mem_take hx)

theorem NoReset.nextIn {s : State} (h : NoReset s) : s.nextIn.rst = false := by
  unfold State.nextIn
  cases hs : s.hostIn with
  | nil => rfl
  | cons x l => exact h x (by simp [hs])

/-- `n` ticks of the timer with no reset: the timer is `n` lower and `n` edges have passed. -/
theorem passTicks_timer {n : Nat} {s : State} (h : NoResetWithin n s) :
    passTicks State.timerTick n s = .elapsed { s with
      tmr := s.tmr - n, drv_req := if n = 0 then s.drv_req else false
      hostIn := s.hostIn.drop n, edge := s.edge + n } := by
  induction n generalizing s with
  | zero => simp [passTicks]
  | succ n ih =>
    obtain ⟨h0, h1⟩ := State.noResetWithin_succ.mp h
    simp only [passTicks, State.timerTick, h0, if_false, Bool.false_eq_true]
    rw [ih (by simpa [NoResetWithin] using h1)]
    have e : s.tmr - 1 - n = s.tmr - (n + 1) := by omega
    by_cases hn : n = 0 <;> simp [e, hn, State.clockEdge, Nat.add_assoc, Nat.add_comm 1]

/-- `n` ticks of the set-up time with no reset. -/
theorem passTicks_setup {n : Nat} {s : State} (h : NoResetWithin n s) :
    passTicks State.setupTick n s = .elapsed { s with
      setup_left := s.setup_left - n, drv_req := if n = 0 then s.drv_req else false
      hostIn := s.hostIn.drop n, edge := s.edge + n } := by
  induction n generalizing s with
  | zero => simp [passTicks]
  | succ n ih =>
    obtain ⟨h0, h1⟩ := State.noResetWithin_succ.mp h
    simp only [passTicks, State.setupTick, h0, if_false, Bool.false_eq_true]
    rw [ih (by simpa [NoResetWithin] using h1)]
    have e : s.setup_left - 1 - n = s.setup_left - (n + 1) := by omega
    by_cases hn : n = 0 <;> simp [e, hn, State.clockEdge, Nat.add_assoc, Nat.add_comm 1]

/-- The state in which a reset at the `k`-th edge from now leaves the block. -/
def State.resetAfter (s : State) (k : Nat) : State :=
  { s with hostIn := s.hostIn.drop (k + 1), edge := s.edge + (k + 1) }.toReset

/-- A reset at the `k`-th edge of a stretch of ticks ends it there. -/
theorem passTicks_timer_reset {n k : Nat} {s : State} {w : Nat} (hk : k < n) (h : NoResetWithin k s)
    (hr : s.hostIn[k]? = some ⟨true, w⟩) : passTicks State.timerTick n s = .reset (s.resetAfter k) := by
  induction k generalizing n s with
  | zero =>
    obtain ⟨n, rfl⟩ := Nat.exists_eq_add_of_lt hk
    cases hs : s.hostIn with
    | nil => simp [hs] at hr
    | cons x l =>
      simp [hs] at hr
      simp [passTicks, State.timerTick, State.nextIn, hs, hr, State.resetAfter, State.toReset, State.clockEdge]
  | succ k ih =>
    obtain ⟨n, rfl⟩ : ∃ m, n = m + 1 := ⟨n - 1, by omega⟩
    obtain ⟨h0, h1⟩ := State.noResetWithin_succ.mp h
    simp only [passTicks, State.timerTick, h0, if_false, Bool.false_eq_true]
    rw [ih (by omega) (by simpa [NoResetWithin] using h1) (by simpa using hr)]
    simp [State.resetAfter, State.toReset, State.clockEdge, Nat.add_assoc, Nat.add_comm 1]

theorem passTicks_setup_reset {n k : Nat} {s : State} {w : Nat} (hk : k < n) (h : NoResetWithin k s)
    (hr : s.hostIn[k]? = some ⟨true, w⟩) : passTicks State.setupTick n s = .reset (s.resetAfter k) := by
  induction k generalizing n s with
  | zero =>
    obtain ⟨n, rfl⟩ := Nat.exists_eq_add_of_lt hk
    cases hs : s.hostIn with
    | nil => simp [hs] at hr
    | cons x l =>
      simp [hs] at hr
      simp [passTicks, State.setupTick, State.nextIn, hs, hr, State.resetAfter, State.toReset, State.clockEdge]
  | succ k ih =>
    obtain ⟨n, rfl⟩ : ∃ m, n = m + 1 := ⟨n - 1, by omega⟩
    obtain ⟨h0, h1⟩ := State.noResetWithin_succ.mp h
    simp only [passTicks, State.setupTick, h0, if_false, Bool.false_eq_true]
    rw [ih (by omega) (by simpa [NoResetWithin] using h1) (by simpa using hr)]
    simp [State.resetAfter, State.toReset, State.clockEdge, Nat.add_assoc, Nat.add_comm 1]

/-- A stretch of edges holds no reset, or a first one. -/
theorem State.noResetWithin_or_first (n : Nat) (s : State) :
    NoResetWithin n s ∨ ∃ k w, k < n ∧ NoResetWithin k s ∧ s.hostIn[k]? = some ⟨true, w⟩ := by
  induction n with
  | zero => exact .inl (by simp [NoResetWithin])
  | succ n ih =>
    rcases ih with h | ⟨k, w, hk, h⟩
    · rcases hx : s.hostIn[n]? with - | ⟨r, w⟩
      · refine .inl fun x hx' => h x ?_
        rw [List.getElem?_eq_none_iff] at hx
        rwa [List.take_of_length_le (by omega)] at hx' ⊢
      · cases r with
        | true => exact .inr ⟨n, w, by omega, h, hx⟩
        | false =>
          refine .inl fun x hx' => ?_
          rw [List.take_add_one, hx] at hx'
          simp only [List.mem_append, Option.toList_some, List.mem_singleton] at hx'
          rcases hx' with hx' | rfl
          · exact h x hx'
          · rfl
    · exact .inr ⟨k, w, by omega, h⟩

/-- Running the timer out and completing the wait: all it can do. -/
theorem State.runTimer_cases (s : State) (d : Dsel) :
    (NoResetWithin s.tmr s ∧ s.runTimer d = .elapsed { s with
      tmr := 0, drv_req := if s.tmr = 0 then s.drv_req else false
      hostIn := s.hostIn.drop s.tmr, edge := s.edge + s.tmr
      trace := s.trace ++ [Event.wait (s.mem.duration d)] }) ∨
    (∃ k w, k < s.tmr ∧ NoResetWithin k s ∧ s.hostIn[k]? = some ⟨true, w⟩ ∧
      s.runTimer d = .reset (s.resetAfter k)) := by
  rcases s.noResetWithin_or_first s.tmr with h | ⟨k, w, hk, h, hw⟩
  · refine .inl ⟨h, ?_⟩
    simp [State.runTimer, passTicks_timer h, State.waitDone, State.emit]
  · refine .inr ⟨k, w, hk, h, hw, ?_⟩
    simp [State.runTimer, passTicks_timer_reset hk h hw]

/-- A whole wait, as a meaning: the wait over, or a reset at one of its edges. -/
theorem waitFor_cases (d : Dsel) (s : State) (hp : s.paramsOk = true) :
    (NoResetWithin (s.mem.duration d) s ∧ waitFor d s = .next (s.afterWait d)) ∨
    (∃ k w, k < s.mem.duration d ∧ NoResetWithin k s ∧ s.hostIn[k]? = some ⟨true, w⟩ ∧
      waitFor d s = .next (s.resetAfter k)) := by
  have hc := (s.enterWait d).runTimer_cases d
  rw [State.enterWait_tmr] at hc
  rcases hc with ⟨h, e⟩ | ⟨k, w, hk, hn, hw, e⟩
  · refine .inl ⟨h, ?_⟩
    rw [waitFor, gated_ok _ hp, e]
    simp only [Passed.state, State.afterWait, State.later]
    congr 1
    simp
  · refine .inr ⟨k, w, hk, hn, hw, ?_⟩
    rw [waitFor, gated_ok _ hp, e]
    simp [Passed.state, State.resetAfter, State.toReset, State.enterWait]

end Sys2Proof.Machine
end

