-- ==== Sys2Proof/Laws/PerInstr.lean ====
section
/-! SUPPORT. Facts about every operation as syntax, one lemma per constructor. -/

/-- The word of a well-formed operation fits its format's length (30_encoding.md R70), at all widths. -/
def Sys2Proof.Laws.EncodeFits.Statement (i : Sys2Proof.Instr) : Prop :=
  ∀ W : Sys2Proof.Widths, W.ok = true → i.wellFormed W = true →
    (Sys2Proof.encode W i).2 < 2 ^ (Sys2Proof.encode W i).1.width W

namespace Sys2Proof.Laws.EncodeFits

/-- Two fields side by side fit the sum of their widths. -/
theorem append_lt {a b m n : Nat} (ha : a < 2 ^ m) (hb : b < 2 ^ n) : a * 2 ^ n + b < 2 ^ (m + n) := by
  have h : a * 2 ^ n + 2 ^ n ≤ 2 ^ m * 2 ^ n := by
    rw [← Nat.succ_mul]
    exact Nat.mul_le_mul_right _ ha
  rw [Nat.pow_add]
  omega

theorem encodeH_lt (W : Widths) (st rv : Bool) {rep cmd : Nat} (h : rep < 2 ^ W.repW ∧ cmd < 2 ^ W.idW) :
    encodeH W st rv rep cmd < 2 ^ (2 + W.repW + W.idW) :=
  append_lt (append_lt (by cases st <;> cases rv <;> decide) h.1) h.2

theorem hold (rv : Bool) (rep cmd : Nat) : Statement (.hold rv rep cmd) := fun W _ h =>
  encodeH_lt W _ _ (by simpa [Instr.wellFormed] using h)
theorem transmit (rep cmd : Nat) : Statement (.transmit rep cmd) := fun W _ h =>
  encodeH_lt W _ _ (by simpa [Instr.wellFormed] using h)
theorem transmitDflt (rep cmd : Nat) : Statement (.transmitDflt rep cmd) := fun W _ h =>
  encodeH_lt W _ _ (by simpa [Instr.wellFormed] using h)
theorem sym (n : Nat) : Statement (.sym n) := fun W _ h => by
  have h : n < 2 ^ (W.symW - 1) := by simpa [Instr.wellFormed] using h
  exact Nat.lt_of_lt_of_le h (Nat.pow_le_pow_right (by decide) (Nat.sub_le _ _))
theorem symNeg (n : Int) : Statement (.symNeg n) := fun W _ h => by
  have h : n < 0 := by
    simp only [Instr.wellFormed, Bool.and_eq_true, decide_eq_true_eq] at h
    exact h.2
  have hp : 0 < 2 ^ W.symW := Nat.two_pow_pos _
  show (n + 2 ^ W.symW).toNat < 2 ^ W.symW
  have e : ((2 : Int) ^ W.symW) = ((2 ^ W.symW : Nat) : Int) := by norm_cast
  omega
theorem configure : Statement .configure := fun _ _ _ => show DrvOp.configure.code.toNat < 2 ^ 2 by decide
theorem setHigh : Statement .setHigh := fun _ _ _ => show DrvOp.setHigh.code.toNat < 2 ^ 2 by decide
theorem setLow : Statement .setLow := fun _ _ _ => show DrvOp.setLow.code.toNat < 2 ^ 2 by decide
theorem release : Statement .release := fun _ _ _ => show DrvOp.release.code.toNat < 2 ^ 2 by decide
theorem waitSon : Statement .waitSon := fun _ _ _ => show Dsel.son.code.toNat < 2 ^ 3 by decide
theorem waitLon : Statement .waitLon := fun _ _ _ => show Dsel.lon.code.toNat < 2 ^ 3 by decide
theorem waitSoff : Statement .waitSoff := fun _ _ _ => show Dsel.soff.code.toNat < 2 ^ 3 by decide
theorem waitLoff : Statement .waitLoff := fun _ _ _ => show Dsel.loff.code.toNat < 2 ^ 3 by decide
theorem waitHres : Statement .waitHres := fun _ _ _ => show Dsel.hres.code.toNat < 2 ^ 3 by decide
theorem waitRres : Statement .waitRres := fun _ _ _ => show Dsel.rres.code.toNat < 2 ^ 3 by decide

end Sys2Proof.Laws.EncodeFits
end

