-- ==== Sys2Proof/Laws/Sequencer.lean ====
section
/-! SUPPORT. What the sequencer's own operations can do: the fetch of each kind of phase, the scan, the dispatch. -/
namespace Sys2Proof.Machine

/-- The code driven on `drv_op` decodes to the request's operation (30_encoding.md R74). -/
theorem decode_drvCode (W : Widths) (op : DrvOp) : decode W .P op.code.toNat = .ok op.instr := by
  cases op <;> rfl

/-- The duration select of a wait decodes to its operation (30_encoding.md R75). -/
theorem decode_dselCode (W : Widths) (d : Dsel) : decode W .T d.code.toNat = .ok d.instr := by
  cases d <;> rfl

/-- Every host word decodes (30_encoding.md R77). -/
theorem decode_hostWord (s : State) : decode s.params.widths .H s.hostWord = .ok (decodeH s.params.widths s.hostWord) := by
  have h : ¬ 2 ^ Format.H.width s.params.widths ≤ s.hostWord := Nat.not_le.mpr (slice_lt _ _ _)
  simp [decode, h]

/-- The operation of a duration select is the wait on it. -/
theorem exec_dselInstr (d : Dsel) (s : State) : exec d.instr s = waitFor d s := by
  cases d <;> rfl

/-- The listed waits are exactly the duration selects and their operations. -/
theorem mem_waitOps {d : Dsel} {i : Instr} : (d, i) ∈ waitOps ↔ i = d.instr := by
  cases d <;> simp [waitOps, Dsel.instr]

/-- A power of the symbol width, over its sign bit. -/
theorem two_pow_symW {W : Widths} (hW : W.ok = true) : 2 ^ W.symW = 2 * 2 ^ (W.symW - 1) := by
  simp only [Widths.ok, Bool.and_eq_true, decide_eq_true_eq] at hW
  obtain ⟨n, hn⟩ : ∃ n, W.symW = n + 1 := ⟨W.symW - 1, by omega⟩
  rw [hn, Nat.pow_succ, Nat.add_sub_cancel, Nat.mul_comm]

/-- Field `neg` of a symbol word is set exactly in the upper half of the words (30_encoding.md R73). -/
theorem symNegative_iff {W : Widths} {w : Nat} (hW : W.ok = true) (hw : w < 2 ^ W.symW) :
    symNegative W w = true ↔ 2 ^ (W.symW - 1) ≤ w := by
  rw [two_pow_symW hW] at hw
  have hp := Nat.two_pow_pos (W.symW - 1)
  have h2 : w / 2 ^ (W.symW - 1) < 2 := by
    rw [Nat.div_lt_iff_lt_mul hp]
    exact hw
  simp only [symNegative, slice, decide_eq_true_eq, pow_one, Nat.mod_eq_of_lt h2]
  constructor
  · intro e
    by_contra hlt
    rw [Nat.div_eq_of_lt (by omega)] at e
    cases e
  · intro hle
    have := Nat.div_pos hle hp
    omega

/-- The integer of a symbol word is negative exactly when field `neg` is set, and is the word itself when it is not. -/
theorem symInt_cases {W : Widths} {w : Nat} (hW : W.ok = true) (hw : w < 2 ^ W.symW) :
    (symNegative W w = true ∧ -(2 ^ (W.symW - 1)) ≤ symInt W w ∧ symInt W w < 0) ∨
    (symNegative W w = false ∧ w < 2 ^ (W.symW - 1) ∧ symInt W w = w) := by
  have e : ((2 : Int) ^ W.symW) = 2 * 2 ^ (W.symW - 1) := by exact_mod_cast two_pow_symW hW
  cases h : symNegative W w
  · refine .inr ⟨rfl, ?_, by simp [symInt, h]⟩
    by_contra hn
    rw [(symNegative_iff hW hw).mpr (by omega)] at h
    cases h
  · have hle : ((2 : Int) ^ (W.symW - 1)) ≤ w := by exact_mod_cast (symNegative_iff hW hw).mp h
    have hlt : (w : Int) < 2 ^ W.symW := by exact_mod_cast hw
    refine .inl ⟨rfl, ?_⟩
    simp only [symInt, h, if_true]
    omega

/-- A valid symbol word is `SYM` of its value (30_encoding.md R73). -/
theorem decodeS_nonneg {W : Widths} {w : Nat} (hW : W.ok = true) (hw : w < 2 ^ W.symW) (h : ¬ symInt W w < 0) :
    decodeS W w = .sym w ∧ w < 2 ^ (W.symW - 1) := by
  rcases symInt_cases hW hw with ⟨-, -, hn⟩ | ⟨hs, hlt, -⟩
  · exact absurd hn h
  · refine ⟨?_, hlt⟩
    simp [decodeS, hs, slice, Nat.mod_eq_of_lt hlt]

/-- The scan finds nothing exactly when no symbol is negative (41_encoder.md R109). -/
theorem firstNegative_eq_none {W : Widths} {l : List Nat} : firstNegative W l = none ↔ ∀ w ∈ l, ¬ symInt W w < 0 := by
  induction l with
  | nil => simp [firstNegative]
  | cons w l ih =>
    by_cases h : symInt W w < 0
    · simp [firstNegative, h]
    · simp only [firstNegative, h, if_false, ih, List.mem_cons, forall_eq_or_imp, not_false_iff, true_and]

/-- What the scan finds is a negative symbol that format S encodes. -/
theorem firstNegative_some {W : Widths} {l : List Nat} {n : Int} (hW : W.ok = true) (hl : ∀ w ∈ l, w < 2 ^ W.symW)
    (h : firstNegative W l = some n) : Instr.wellFormed W (.symNeg n) = true := by
  induction l with
  | nil => simp [firstNegative] at h
  | cons w l ih =>
    by_cases hw : symInt W w < 0
    · simp only [firstNegative, hw, if_true, Option.some.injEq] at h
      subst h
      rcases symInt_cases hW (hl w (by simp)) with ⟨-, hr⟩ | ⟨-, -, e⟩
      · simpa [Instr.wellFormed] using hr
      · omega
    · simp only [firstNegative, hw, if_false] at h
      exact ih (fun x hx => hl x (by simp [hx])) h

/-- The widths of a well-formed parameter set. -/
theorem State.widths_ok {s : State} (hp : s.paramsOk = true) : s.params.widths.ok = true :=
  (State.paramsOk_iff.mp hp).2.2.2.2.2.2.1

/-- The meaning of a valid symbol word (41_encoder.md R101). -/
theorem exec_decodeS {s : State} {w : Nat} (hp : s.paramsOk = true) (hw : w < 2 ^ s.params.widths.symW)
    (h : ¬ symInt s.params.widths w < 0) :
    exec (decodeS s.params.widths w) s = .next { s with long_left := w, phase := .bodyHi } := by
  obtain ⟨e, hlt⟩ := decodeS_nonneg (State.widths_ok hp) hw h
  rw [e]
  exact encodable_ok _ (by simpa [Instr.wellFormed] using hlt) hp

/-- The meaning of a negative symbol the scan found (41_encoder.md R105). -/
theorem exec_symNeg {s : State} {n : Int} (hp : s.paramsOk = true)
    (h : Instr.wellFormed s.params.widths (.symNeg n) = true) :
    exec (.symNeg n) s = .next (s.raise .invalidCommand) := encodable_ok _ h hp

/-- The symbols of a valid command, by index. -/
theorem CommandValid.symbol {s : State} (h : CommandValid s) {i : Nat} (hi : i < s.len_r) :
    s.base_r + i < s.params.symDepth ∧ ¬ symInt s.params.widths (s.mem.readSym (s.base_r + i)) < 0 := by
  obtain ⟨hf, hn⟩ := h
  simp only [entryFits, Bool.or_eq_true, decide_eq_true_eq] at hf
  refine ⟨by omega, firstNegative_eq_none.mp hn _ ?_⟩
  exact List.mem_of_getElem? (Memory.getElem?_symbols s.mem _ _ i hi)

/-- `DISPATCH` of a valid command: all it can do (42_transmitter.md R119). -/
theorem dispatchSymbol_cases {s : State} (hp : s.paramsOk = true) (hv : CommandValid s) :
    (s.sym_idx < s.len_r ∧ s.dispatchSymbol = .next { s with
      long_left := s.mem.readSym (s.base_r + s.sym_idx), phase := .bodyHi }) ∨
    (s.len_r ≤ s.sym_idx ∧ s.rep_left = 0 ∧ s.dispatchSymbol = .refused .positionOutOfBounds) ∨
    (s.len_r ≤ s.sym_idx ∧ s.rep_left ≠ 0 ∧ s.dispatchSymbol = .next { s with
      rep_left := s.rep_left - 1, phase := if s.rep_left - 1 = 0 then .release else .repGap }) := by
  by_cases h : s.sym_idx < s.len_r
  · obtain ⟨ha, hs⟩ := hv.symbol h
    refine .inl ⟨h, ?_⟩
    simp only [State.dispatchSymbol, State.symAddr, h, ha, hs, if_true, if_false]
    exact exec_decodeS hp (State.readSym_lt hp _) hs
  · by_cases hr : s.rep_left = 0
    · exact .inr (.inl ⟨by omega, hr, by
        simp only [State.dispatchSymbol, if_neg h, if_pos hr]⟩)
    · exact .inr (.inr ⟨by omega, hr, by simp only [State.dispatchSymbol, if_neg h, if_neg hr]⟩)

/-- `VALIDATE`: all it can do (41_encoder.md R109). -/
theorem validate_cases {s : State} (hp : s.paramsOk = true) :
    (s.params.nCmds ≤ s.cmd_r ∧ s.validate = .next (s.raise .invalidCommand)) ∨
    (s.cmd_r < s.params.nCmds ∧ ∃ t, t = { s with
        base_r := (s.dirEntry s.cmd_r).base, len_r := (s.dirEntry s.cmd_r).len } ∧
      (¬ CommandValid t ∧ s.validate = .next (t.raise .invalidCommand) ∨
        CommandValid t ∧ s.validate = .next { t with phase := .config })) := by
  by_cases h : s.cmd_r < s.params.nCmds
  · refine .inr ⟨h, _, rfl, ?_⟩
    simp only [State.validate, State.lookup, h, if_true, CommandValid]
    by_cases hf : entryFits s.params.symDepth
        ⟨(s.dirEntry s.cmd_r).base, (s.dirEntry s.cmd_r).len⟩ = true
    · rcases hn : firstNegative s.params.widths (s.mem.symbols (s.dirEntry s.cmd_r).base
          (s.dirEntry s.cmd_r).len) with - | n
      · exact .inr ⟨⟨hf, rfl⟩, by simp [hf]⟩
      · refine .inl ⟨by simp, ?_⟩
        simp only [hf, if_true]
        refine exec_symNeg ((State.paramsOk_congr rfl rfl).trans hp) (firstNegative_some (State.widths_ok hp) ?_ hn)
        intro w hw
        obtain ⟨i, hi⟩ := List.getElem?_of_mem hw
        have hlt : i < (s.dirEntry s.cmd_r).len := by simpa using (List.getElem?_eq_some_iff.mp hi).1
        rw [Memory.getElem?_symbols _ _ _ i hlt] at hi
        cases hi
        exact State.readSym_lt hp _
    · exact .inl ⟨fun hv => hf hv.1, by simp [hf]⟩
  · exact .inl ⟨by omega, by simp [State.validate, State.lookup, h]⟩

end Sys2Proof.Machine
end

