-- ==== Sys2Proof/Laws/Step.lean ====
section
/-! SUPPORT. What one step can do, kind of phase by kind of phase. Every rule about all steps is derived from these. -/
namespace Sys2Proof.Machine

/-- A phase that waits issues no request, and is none of the phases without an operation. -/
theorem State.waitSel_some {s : State} {d : Dsel} (h : s.waitSel = some d) :
    s.phase.drvOp = none ∧ s.phase ≠ .idle ∧ s.phase ≠ .validate ∧ s.phase ≠ .reserved ∧
      s.fetch = some (.T, d.code.toNat) := by
  cases hp : s.phase <;> simp_all [State.fetch, State.waitSel, Phase.drvOp]

/-- A phase that issues a request does not wait, and is none of the phases without an operation. -/
theorem State.drvOp_some {s : State} {op : DrvOp} (h : s.phase.drvOp = some op) :
    s.waitSel = none ∧ s.phase ≠ .idle ∧ s.phase ≠ .validate ∧ s.phase ≠ .reserved ∧
      s.fetch = some (.P, op.code.toNat) := by
  cases hp : s.phase <;> simp_all [State.fetch, State.waitSel, Phase.drvOp]

/-- Every phase is idle, validation, one that issues a request, one that waits, or the reserved one. -/
theorem State.phase_kinds (s : State) :
    s.phase = .idle ∨ s.phase = .validate ∨ (∃ op, s.phase.drvOp = some op) ∨ (∃ d, s.waitSel = some d) ∨
      s.phase = .reserved := by
  cases hp : s.phase <;> simp [State.waitSel, Phase.drvOp, hp]

theorem step_bad {s : State} (hp : s.paramsOk = false) : step s = .refused .illFormedParameters := by
  simp [step, hp]

theorem step_idle {s : State} (hp : s.paramsOk = true) (h : s.phase = .idle) : step s = s.idleStep := by
  simp [step, hp, State.opStep, h]

theorem step_validate {s : State} (hp : s.paramsOk = true) (h : s.phase = .validate) : step s = s.validateStep := by
  simp [step, hp, State.opStep, h]

theorem step_reserved {s : State} (hp : s.paramsOk = true) (h : s.phase = .reserved) :
    step s = .refused .reservedPhase := by
  simp [step, hp, State.opStep, h, State.waitSel, State.runFetched, State.fetch, Phase.drvOp]

/-- In a phase that issues a request the step runs that request's operation. -/
theorem step_driver {s : State} {op : DrvOp} (hp : s.paramsOk = true) (h : s.phase.drvOp = some op) :
    step s = afterOp s.phase (exec op.instr s) := by
  obtain ⟨h4, h1, h2, -, hf⟩ := State.drvOp_some h
  have e : s.opStep = s.runFetched := by
    unfold State.opStep
    rw [h4]
    cases hs : s.phase <;> simp_all
  simp only [step, hp, if_true, e, State.runFetched, hf, State.runWord, decode_drvCode]

/-- In a phase that waits, with no wait in progress, the step runs the wait. -/
theorem step_wait {s : State} {d : Dsel} (hp : s.paramsOk = true) (h : s.waitSel = some d) (ht : s.tmr = 0) :
    step s = afterOp s.phase (waitFor d s) := by
  obtain ⟨-, h1, h2, -, hf⟩ := State.waitSel_some h
  have e : s.opStep = s.runFetched := by
    unfold State.opStep
    rw [h]
    cases hs : s.phase <;> simp_all
  simp only [step, hp, if_true, e, State.runFetched, hf, State.runWord, decode_dselCode, exec_dselInstr]

/-- In a phase that waits, with a wait in progress, the step runs the rest of it. -/
theorem step_resume {s : State} {d : Dsel} (hp : s.paramsOk = true) (h : s.waitSel = some d) (ht : s.tmr ≠ 0) :
    step s = s.resumeWait d := by
  obtain ⟨-, h1, h2, -, -⟩ := State.waitSel_some h
  have e : s.opStep = s.resumeWait d := by
    unfold State.opStep
    rw [h]
    cases hs : s.phase <;> simp_all
  simp only [step, hp, if_true, e]

/-- The step of a waiting phase, wait in progress or not: the wait is over and the position advances, or a reset came. The timer's edges ahead are
those of `n`. -/
theorem step_wait_cases {s : State} {d : Dsel} (hp : s.paramsOk = true) (h : s.waitSel = some d) :
    ∃ n, n = (if s.tmr = 0 then s.mem.duration d else s.tmr) ∧
      ((NoResetWithin n s ∧
        step s = State.advance { s.later n with tmr := 0, trace := s.trace ++ [Event.wait (s.mem.duration d)] }) ∨
      (∃ k w, k < n ∧ NoResetWithin k s ∧ s.hostIn[k]? = some ⟨true, w⟩ ∧ step s = .next (s.resetAfter k))) := by
  have hi := (State.waitSel_some h).2.1
  refine ⟨_, rfl, ?_⟩
  by_cases ht : s.tmr = 0
  · simp only [if_pos ht]
    rw [step_wait hp h ht]
    rcases waitFor_cases d s hp with ⟨hn, e⟩ | ⟨k, w, hk, hn, hw, e⟩
    · refine .inl ⟨hn, ?_⟩
      rw [e]
      simp only [afterOp, andThen_next, State.afterWait, State.later, if_true]
    · refine .inr ⟨k, w, hk, hn, hw, ?_⟩
      rw [e]
      simp [afterOp, State.resetAfter, Ne.symm hi]
  · simp only [if_neg ht]
    rw [step_resume hp h ht, State.resumeWait]
    rcases s.runTimer_cases d with ⟨hn, e⟩ | ⟨k, w, hk, hn, hw, e⟩
    · refine .inl ⟨hn, ?_⟩
      rw [e]
      simp only [if_neg ht, State.later]
    · exact .inr ⟨k, w, hk, hn, hw, by rw [e]⟩

/-- The step of the validation phase: the set-up time passes and the command is validated, or a reset came. -/
theorem step_validate_cases {s : State} (hp : s.paramsOk = true) (h : s.phase = .validate) :
    (NoResetWithin s.setup_left s ∧ step s = State.validate { s with
      setup_left := 0, drv_req := if s.setup_left = 0 then s.drv_req else false
      hostIn := s.hostIn.drop s.setup_left, edge := s.edge + s.setup_left }) ∨
    (∃ k w, k < s.setup_left ∧ NoResetWithin k s ∧ s.hostIn[k]? = some ⟨true, w⟩ ∧
      step s = .next (s.resetAfter k)) := by
  rw [step_validate hp h, State.validateStep]
  rcases s.noResetWithin_or_first s.setup_left with hn | ⟨k, w, hk, hn, hw⟩
  · exact .inl ⟨hn, by simp [passTicks_setup hn]⟩
  · exact .inr ⟨k, w, hk, hn, hw, by rw [passTicks_setup_reset hk hn hw]⟩

/-- The step of an idle block: a reset, or the host word sampled at the next edge is run. -/
theorem step_idle_cases {s : State} (hp : s.paramsOk = true) (h : s.phase = .idle) :
    (s.nextIn.rst = true ∧ step s = .next s.clockEdge.toReset) ∨
    (s.nextIn.rst = false ∧ step s = afterOp .idle (exec (decodeH s.params.widths s.hostWord) s.clockEdge)) := by
  rw [step_idle hp h, State.idleStep]
  cases hr : s.nextIn.rst
  · refine .inr ⟨rfl, ?_⟩
    simp [State.runWord, decode_hostWord, h]
  · exact .inl ⟨rfl, by simp⟩

/-- The operation of a host word is well formed (30_encoding.md R71). -/
theorem decodeH_wellFormed (W : Widths) (w : Nat) : (decodeH W w).wellFormed W = true := by
  have h : (slice w W.idW W.repW < 2 ^ W.repW) ∧ slice w 0 W.idW < 2 ^ W.idW := ⟨slice_lt _ _ _, slice_lt _ _ _⟩
  simp only [decodeH]
  split
  · split <;> simpa [Instr.wellFormed] using h
  · simpa [Instr.wellFormed] using h

/-- The host word run by a block: nothing, or, when it is not busy, an accepted start with operands of their widths. -/
theorem exec_decodeH_cases (s : State) (w : Nat) (hp : s.paramsOk = true) :
    exec (decodeH s.params.widths w) s = .next s ∨
    (s.busy = false ∧ ∃ rep cmd, rep < 2 ^ s.params.widths.repW ∧ cmd < 2 ^ s.params.widths.idW ∧
      exec (decodeH s.params.widths w) s = .next (s.acceptStart rep cmd)) := by
  have hw := decodeH_wellFormed s.params.widths w
  have hr : Config.repeatDefault < 2 ^ s.params.widths.repW := by
    have := State.widths_ok hp
    simp only [Widths.ok, Bool.and_eq_true, decide_eq_true_eq] at this
    exact this.2
  simp only [decodeH] at hw ⊢
  split
  · split
    · rename_i h1 h2
      simp only [if_pos h1, if_pos h2] at hw
      cases hb : s.busy
      · exact .inr ⟨rfl, slice w s.params.widths.idW s.params.widths.repW, slice w 0 s.params.widths.idW, slice_lt _ _ _,
          slice_lt _ _ _, by
          simp only [exec, execTransmit, State.start, hb, encodable_ok _ hw hp, Bool.false_eq_true, if_false]⟩
      · exact .inl (by simp only [exec, execTransmit, State.start, hb, encodable_ok _ hw hp, if_true])
    · rename_i h1 h2
      simp only [if_pos h1, if_neg h2] at hw
      cases hb : s.busy
      · exact .inr ⟨rfl, Config.repeatDefault, slice w 0 s.params.widths.idW, hr, slice_lt _ _ _, by
          simp only [exec, execTransmitDflt, State.start, hb, encodable_ok _ hw hp, Bool.false_eq_true, if_false]⟩
      · exact .inl (by simp only [exec, execTransmitDflt, State.start, hb, encodable_ok _ hw hp, if_true])
  · rename_i h1
    simp only [if_neg h1] at hw
    exact .inl (encodable_ok _ hw hp)

end Sys2Proof.Machine
end

