-- ==== Sys2Proof/Laws/StepTable.lean ====
section
/-! SUPPORT. The step relation, row by row: everything a step that answers a next state can have done. A rule about all steps is proved by
`cases` on it. -/
namespace Sys2Proof.Machine

/-- The ticks a waiting phase still has to wait: the whole duration, or what is left of a wait in progress. -/
def State.waitLeft (s : State) (d : Dsel) : Nat := if s.tmr = 0 then s.mem.duration d else s.tmr

/-- The state in which a wait is over, before the position advances. -/
def State.waited (s : State) (d : Dsel) : State :=
  { s.later (s.waitLeft d) with tmr := 0, trace := s.trace ++ [.wait (s.mem.duration d)] }

/-- The state in which the set-up time is over. -/
def State.settled (s : State) : State :=
  { s with
    setup_left := 0, drv_req := if s.setup_left = 0 then s.drv_req else false
    hostIn := s.hostIn.drop s.setup_left, edge := s.edge + s.setup_left }

/-- The state after `LOOKUP` of an existing entry. -/
def State.lookedUp (s : State) : State :=
  { s with base_r := (s.dirEntry s.cmd_r).base, len_r := (s.dirEntry s.cmd_r).len }

/-- What a request leaves: the port, the answer used up, the event. -/
def State.requested (s : State) (op : DrvOp) (failed : Bool) : State := (s.request op).emit (.req op failed)

/-- The position at which the next symbol is looked for: at the end of the header or of a group. -/
def State.dispatchAt (s : State) (d : Dsel) (idx : Nat) : Prop :=
  (s.phase = .hdrRes ∧ d = .hres ∧ idx = 0) ∨
  (s.phase = .grpGap ∧ d = .loff ∧ idx = s.sym_idx + 1 ∧ s.sym_idx < s.len_r)

/-- The rows of the step table, with the internal and host steps and reset. -/
inductive StepTo (s : State) : State → Prop where
  | hold (h : s.phase = .idle) (hr : s.nextIn.rst = false) : StepTo s s.clockEdge
  | start (rep cmd : Nat) (hrep : rep < 2 ^ s.params.widths.repW) (hcmd : cmd < 2 ^ s.params.widths.idW)
      (h : s.phase = .idle) (hb : s.busy = false) (hr : s.nextIn.rst = false) :
      StepTo s (s.clockEdge.acceptStart rep cmd)
  | resetIdle (h : s.phase = .idle) (hr : s.nextIn.rst = true) : StepTo s s.clockEdge.toReset
  | reset (k : Nat) (w : Nat) (h : s.phase = .validate ∨ ∃ d, s.waitSel = some d) (hn : NoResetWithin k s)
      (hr : s.hostIn[k]? = some ⟨true, w⟩) : StepTo s (s.resetAfter k)
  | unknown (h : s.phase = .validate) (hc : s.params.nCmds ≤ s.cmd_r) :
      StepTo s (s.settled.raise .invalidCommand)
  | invalid (h : s.phase = .validate) (hc : s.cmd_r < s.params.nCmds) (hv : ¬ CommandValid s.settled.lookedUp) :
      StepTo s (s.settled.lookedUp.raise .invalidCommand)
  | valid (h : s.phase = .validate) (hc : s.cmd_r < s.params.nCmds) (hv : CommandValid s.settled.lookedUp) :
      StepTo s { s.settled.lookedUp with phase := .config }
  | configureEmpty (h : s.phase = .config) (ha : s.nextAnswer = .ok) (hl : s.rep_left = 0) :
      StepTo s { s.requested .configure false with tx_oe := true, phase := .release }
  | configure (h : s.phase = .config) (ha : s.nextAnswer = .ok) (hl : s.rep_left ≠ 0) :
      StepTo s { s.requested .configure false with
        tx_oe := true, sync_left := s.params.syncPulses, phase := .hdrHi }
  | configureFails (h : s.phase = .config) (ha : s.nextAnswer = .fail) :
      StepTo s ((s.requested .configure true).raise .resourceUnavailable)
  | high (h : s.phase = .hdrHi) (ha : s.nextAnswer = .ok) :
      StepTo s { s.requested .setHigh false with tx := true, phase := .hdrHiW }
  | bodyHigh (h : s.phase = .bodyHi) (ha : s.nextAnswer = .ok) :
      StepTo s { s.requested .setHigh false with tx := true, phase := .bodyHiW }
  | highFails (h : s.phase = .hdrHi ∨ s.phase = .bodyHi) (ha : s.nextAnswer = .fail) :
      StepTo s ((s.requested .setHigh true).raise .driverFault)
  | low (h : s.phase = .hdrLo) (ha : s.nextAnswer = .ok) :
      StepTo s { s.requested .setLow false with tx := false, phase := .hdrLoW }
  | bodyLow (h : s.phase = .bodyLo) (ha : s.nextAnswer = .ok) :
      StepTo s { s.requested .setLow false with tx := false, phase := .bodyLoW }
  | lowFails (h : s.phase = .hdrLo ∨ s.phase = .bodyLo) (ha : s.nextAnswer = .fail) :
      StepTo s ((s.requested .setLow true).raise .driverFault)
  | release (h : s.phase = .release) :
      StepTo s { (s.requested .release false).finish with tx := false, tx_oe := false }
  | highOver (h : s.phase = .hdrHiW) : StepTo s { s.waited .son with phase := .hdrLo }
  | syncMore (h : s.phase = .hdrLoW) (h1 : 1 < s.sync_left) :
      StepTo s { s.waited .soff with sync_left := s.sync_left - 1, phase := .hdrHi }
  | syncLast (h : s.phase = .hdrLoW) (h0 : s.sync_left = 1) :
      StepTo s { s.waited .soff with sync_left := 0, phase := .hdrRes }
  | longOver (h : s.phase = .bodyHiW) (hl : s.long_left ≠ 0) : StepTo s { s.waited .lon with phase := .bodyLo }
  | shortOver (h : s.phase = .bodyHiW) (hl : s.long_left = 0) : StepTo s { s.waited .son with phase := .bodyLo }
  | groupMore (h : s.phase = .bodyLoW) (hl : s.long_left ≠ 0) :
      StepTo s { s.waited .soff with long_left := s.long_left - 1, phase := .bodyHi }
  | groupLast (h : s.phase = .bodyLoW) (hl : s.long_left = 0) : StepTo s { s.waited .soff with phase := .grpGap }
  | repeatGap (h : s.phase = .repGap) :
      StepTo s { s.waited .rres with sync_left := s.params.syncPulses, phase := .hdrHi }
  | symbol (d : Dsel) (idx : Nat) (h : s.dispatchAt d idx) (hi : idx < s.len_r)
      (ha : s.base_r + idx < s.params.symDepth)
      (hs : ¬ symInt s.params.widths (s.mem.readSym (s.base_r + idx)) < 0) :
      StepTo s { s.waited d with
        sym_idx := idx, phase := .bodyHi
        long_left := s.mem.readSym (s.base_r + idx) }
  | lastRepeat (d : Dsel) (idx : Nat) (h : s.dispatchAt d idx) (hi : s.len_r ≤ idx)
      (hr : s.rep_left = 1) : StepTo s { s.waited d with sym_idx := idx, rep_left := 0, phase := .release }
  | nextRepeat (d : Dsel) (idx : Nat) (h : s.dispatchAt d idx) (hi : s.len_r ≤ idx)
      (hr : 1 < s.rep_left) :
      StepTo s { s.waited d with sym_idx := idx, rep_left := s.rep_left - 1, phase := .repGap }

theorem dispatch_to {s t u : State} {d : Dsel} {idx : Nat} (hp : s.paramsOk = true) (h : s.dispatchAt d idx)
    (hu : u = { s.waited d with sym_idx := idx }) (e : u.dispatchSymbol = .next t) : StepTo s t := by
  subst hu
  by_cases hi : idx < s.len_r
  · by_cases ha : s.base_r + idx < s.params.symDepth
    · by_cases hs : symInt s.params.widths (s.mem.readSym (s.base_r + idx)) < 0
      · simp [State.dispatchSymbol, State.symAddr, State.waited, State.later, hi, ha, hs] at e
      · have e1 : State.dispatchSymbol { s.waited d with sym_idx := idx } =
            exec (decodeS s.params.widths (s.mem.readSym (s.base_r + idx))) { s.waited d with sym_idx := idx } := by
          simp [State.dispatchSymbol, State.symAddr, State.waited, State.later, hi, ha, hs]
        have e2 : exec (decodeS s.params.widths (s.mem.readSym (s.base_r + idx))) { s.waited d with sym_idx := idx } = _ :=
          exec_decodeS (s := { s.waited d with sym_idx := idx }) ((State.paramsOk_congr rfl rfl).trans hp)
            (State.readSym_lt hp _) hs
        rw [e1, e2] at e
        cases e
        exact .symbol d idx h hi ha hs
    · simp [State.dispatchSymbol, State.symAddr, State.waited, State.later, hi, ha] at e
  · by_cases h0 : s.rep_left = 0
    · simp [State.dispatchSymbol, State.waited, State.later, hi, h0] at e
    · have e1 : State.dispatchSymbol { s.waited d with sym_idx := idx } = .next { s.waited d with
          sym_idx := idx, rep_left := s.rep_left - 1
          phase := if s.rep_left - 1 = 0 then .release else .repGap } := by
        exact (if_neg hi).trans (if_neg h0)
      rw [e1] at e
      cases e
      by_cases hr : s.rep_left - 1 = 0
      · simp only [hr, if_true]
        exact .lastRepeat d idx h (by omega) (by omega)
      · simp only [if_neg hr]
        exact .nextRepeat d idx h (by omega) (by omega)

/-- The position update of a waiting phase whose wait is over. -/
theorem advance_to {s t : State} {d : Dsel} (hp : s.paramsOk = true) (h : s.waitSel = some d)
    (e : (s.waited d).advance = .next t) : StepTo s t := by
  cases hph : s.phase
  all_goals simp only [State.waitSel, hph] at h
  all_goals first | (cases h; done) | skip
  case bodyHiW =>
    by_cases hl : s.long_left = 0
    · rw [if_pos hl] at h
      cases h
      simp only [State.advance, State.waited, State.later, hph] at e
      cases e
      exact .shortOver hph hl
    · rw [if_neg hl] at h
      cases h
      simp only [State.advance, State.waited, State.later, hph] at e
      cases e
      exact .longOver hph hl
  all_goals cases h
  all_goals simp only [State.advance, show ∀ d, (s.waited d).phase = s.phase from fun _ => rfl, hph] at e
  case hdrHiW => cases e; exact .highOver hph
  case hdrLoW =>
    by_cases h0 : s.sync_left = 0
    · simp [State.waited, State.later, h0] at e
    · rw [if_neg (show ¬ (s.waited .soff).sync_left = 0 from h0)] at e
      by_cases h1 : s.sync_left - 1 = 0
      · rw [if_pos (show (s.waited .soff).sync_left - 1 = 0 from h1)] at e
        cases e
        have h2 : (s.waited .soff).sync_left - 1 = 0 := h1
        rw [h2]
        exact .syncLast hph (by omega)
      · rw [if_neg (show ¬ (s.waited .soff).sync_left - 1 = 0 from h1)] at e
        cases e
        exact .syncMore hph (by omega)
  case hdrRes => exact dispatch_to hp (.inl ⟨hph, rfl, rfl⟩) (by rw [← hph]; rfl) e
  case bodyLoW =>
    by_cases hl : s.long_left = 0
    · rw [if_pos (show (s.waited .soff).long_left = 0 from hl)] at e
      cases e
      exact .groupLast hph hl
    · rw [if_neg (show ¬ (s.waited .soff).long_left = 0 from hl)] at e
      cases e
      exact .groupMore hph hl
  case grpGap =>
    by_cases hi : s.sym_idx < s.len_r
    · have : (s.waited .loff).sym_idx < (s.waited .loff).len_r := hi
      rw [if_pos this] at e
      exact dispatch_to hp (.inr ⟨hph, rfl, rfl, hi⟩) (by rw [← hph]; rfl) e
    · have : ¬ (s.waited .loff).sym_idx < (s.waited .loff).len_r := hi
      rw [if_neg this] at e
      cases e
  case repGap => cases e; exact .repeatGap hph

/-- The step of a phase that issues a request. -/
theorem driver_to {s t : State} {op : DrvOp} (hp : s.paramsOk = true) (h : s.phase.drvOp = some op)
    (e : step s = .next t) : StepTo s t := by
  rw [step_driver hp h] at e
  cases hph : s.phase
  all_goals simp only [Phase.drvOp, hph] at h
  all_goals first | (cases h; done) | skip
  all_goals cases h
  all_goals simp only [DrvOp.instr, exec, execConfigure, execSetHigh, execSetLow, execRelease, gated_ok _ hp, afterOp,
    andThen_next] at e
  case release =>
    simp only [State.finish_phase, hph, reduceCtorEq, if_false] at e
    cases e
    exact .release hph
  all_goals (rcases s.nextAnswer_cases with ha | ha)
  all_goals first
    | simp only [State.requestOr_ok _ _ _ ha] at e
    | simp only [State.requestOr_fail _ _ _ ha] at e
  all_goals simp only [State.emit_phase, State.request_phase, State.raise_driverFault_phase,
    State.raise_resourceUnavailable_phase, hph, if_true, if_false, reduceCtorEq, State.advance] at e
  case config.refl.inl =>
    by_cases hl : s.rep_left = 0
    · rw [if_pos (show ((s.request .configure).emit (.req .configure false)).rep_left = 0 from hl)] at e
      cases e
      exact .configureEmpty hph ha hl
    · rw [if_neg (show ¬ ((s.request .configure).emit (.req .configure false)).rep_left = 0 from hl)] at e
      cases e
      exact .configure hph ha hl
  all_goals cases e
  case config.refl.inr => exact .configureFails hph ha
  case hdrHi.refl.inl => exact .high hph ha
  case hdrHi.refl.inr => exact .highFails (.inl hph) ha
  case hdrLo.refl.inl => exact .low hph ha
  case hdrLo.refl.inr => exact .lowFails (.inl hph) ha
  case bodyHi.refl.inl => exact .bodyHigh hph ha
  case bodyHi.refl.inr => exact .highFails (.inr hph) ha
  case bodyLo.refl.inl => exact .bodyLow hph ha
  case bodyLo.refl.inr => exact .lowFails (.inr hph) ha

/-- A listed reset is one of the resets that `NoReset` rules out. -/
theorem not_noReset {s : State} {k : Nat} {w : Nat} (h : s.hostIn[k]? = some ⟨true, w⟩) : ¬ NoReset s := fun hn => by
  simpa using hn _ (List.mem_of_getElem? h)

/-- Everything a step that answers a next state can have done. -/
theorem step_to {s t : State} (e : step s = .next t) : StepTo s t := by
  cases hp : s.paramsOk
  · rw [step_bad hp] at e
    cases e
  rcases s.phase_kinds with h | h | ⟨op, h⟩ | ⟨d, h⟩ | h
  · rcases step_idle_cases hp h with ⟨hr, e'⟩ | ⟨hr, e'⟩
    · rw [e'] at e
      cases e
      exact .resetIdle h hr
    · have hp' : s.clockEdge.paramsOk = true := (State.paramsOk_congr rfl rfl).trans hp
      rw [e'] at e
      rcases exec_decodeH_cases s.clockEdge s.hostWord hp' with ex | ⟨hb, rep, cmd, hrep, hcmd, ex⟩
      · have ex : exec (decodeH s.params.widths s.hostWord) s.clockEdge = _ := ex
        rw [ex] at e
        simp [afterOp, State.advance, h] at e
        subst e
        exact .hold h hr
      · have ex : exec (decodeH s.params.widths s.hostWord) s.clockEdge = _ := ex
        have ha : afterOp .idle (.next (s.clockEdge.acceptStart rep cmd)) =
            .next (s.clockEdge.acceptStart rep cmd) := by simp [afterOp]
        rw [ex, ha] at e
        cases e
        exact .start rep cmd hrep hcmd h hb hr
  · rcases step_validate_cases hp h with ⟨_, e'⟩ | ⟨k, w, -, hn, hw, e'⟩
    · have hp' : s.settled.paramsOk = true := (State.paramsOk_congr rfl rfl).trans hp
      rw [e'] at e
      rcases validate_cases hp' with ⟨hc, ev⟩ | ⟨hc, u, rfl, ⟨hv, ev⟩ | ⟨hv, ev⟩⟩
      · have := ev.symm.trans e
        cases this
        exact .unknown h hc
      · have := ev.symm.trans e
        cases this
        exact .invalid h hc hv
      · have := ev.symm.trans e
        cases this
        exact .valid h hc hv
    · rw [e'] at e
      cases e
      exact .reset k w (.inl h) hn hw
  · exact driver_to hp h e
  · rcases step_wait_cases hp h with ⟨n, hn, ⟨_, e'⟩ | ⟨k, w, -, hr, hw, e'⟩⟩
    · rw [e', hn] at e
      exact advance_to hp h e
    · rw [e'] at e
      cases e
      exact .reset k w (.inr ⟨d, h⟩) hr hw
  · rw [step_reserved hp h] at e
    cases e

end Sys2Proof.Machine
end

