-- ==== Sys2Proof/Laws/Tick.lean ====
section
/-! SUPPORT. What one tick-level step is, kind of phase by kind of phase. -/
namespace Sys2Proof.Machine

theorem andThen_id (r : Result) : andThen r (fun s => .next s) = r := by
  cases r <;> rfl

/-- One tick-level step, as a run. -/
theorem tickRun_one (s : State) : tickRun 1 s = tickStep s := andThen_id _

theorem tickStep_bad {s : State} (hp : s.paramsOk = false) : tickStep s = .refused .illFormedParameters := by
  simp [tickStep, hp]

theorem tickStep_idle {s : State} (hp : s.paramsOk = true) (h : s.phase = .idle) : tickStep s = step s := by
  rw [step_idle hp h]
  simp [tickStep, hp, h]

theorem tickStep_validate {s : State} (hp : s.paramsOk = true) (h : s.phase = .validate) :
    tickStep s = if s.setup_left = 0 then s.validate else .next s.setupTick.state := by
  simp [tickStep, hp, h]

theorem tickStep_driver {s : State} {op : DrvOp} (hp : s.paramsOk = true) (h : s.phase.drvOp = some op) :
    tickStep s = step s := by
  obtain ⟨h0, h1, h2, -, -⟩ := State.drvOp_some h
  simp only [tickStep, hp, if_true, h0, step, State.opStep]

theorem tickStep_wait {s : State} {d : Dsel} (hp : s.paramsOk = true) (h : s.waitSel = some d) :
    tickStep s = s.waitTick d := by
  obtain ⟨-, h1, h2, -, -⟩ := State.waitSel_some h
  unfold tickStep
  rw [h]
  cases hs : s.phase <;> simp_all

theorem tickStep_reserved {s : State} (hp : s.paramsOk = true) (h : s.phase = .reserved) : tickStep s = step s := by
  simp [tickStep, hp, h, step, State.opStep, State.waitSel]

end Sys2Proof.Machine
end

