-- ==== Sys2Proof/Laws/Trace.lean ====
section
/-! SUPPORT. Lengths, durations and counts of traces over `++` and repetition. -/
namespace Sys2Proof.Machine

@[simp] theorem repeatTrace_zero (l : List Event) : repeatTrace 0 l = [] := rfl

theorem repeatTrace_succ (k : Nat) (l : List Event) : repeatTrace (k + 1) l = l ++ repeatTrace k l := by
  simp [repeatTrace, List.replicate_succ]

@[simp] theorem traceTicks_nil : traceTicks [] = 0 := rfl

theorem traceTicks_append (a b : List Event) : traceTicks (a ++ b) = traceTicks a + traceTicks b := by
  simp [traceTicks]

@[simp] theorem countReq_nil (op : DrvOp) : countReq op [] = 0 := rfl

theorem countReq_append (op : DrvOp) (a b : List Event) : countReq op (a ++ b) = countReq op a + countReq op b := by
  simp [countReq]

/-- The level after a trace goes on event by event (42_transmitter.md R124). -/
theorem traceLevel_concat (l : List Event) (e : Event) : traceLevel (l ++ [e]) = levelAfter (traceLevel l) e := by
  simp [traceLevel]

theorem bodyTrace_cons (m : Memory) (n : Nat) (c : List Nat) :
    bodyTrace m (n :: c) = groupTrace m n ++ bodyTrace m c := by
  simp [bodyTrace]

end Sys2Proof.Machine
end

