-- ==== Sys2Proof/Tests/Slice0.lean ====
section
/-! SUPPORT. The model's own tests: ill-formed terms are refused, words written out from 30_encoding.md decode to their operations, one step of each
operation on the ROM image of 95_test_vectors.md, and for every statement with hypotheses a state that meets them all. Expected values are the
spec's, its rule or vector named at each group. -/
open Sys2Proof Sys2Proof.Machine
namespace Sys2Proof.Tests

/-! ## WellFormed: `SYM n` takes 0 to 127 (R101), `SYM.NEG n` takes -128 to -1 (R105) -/

theorem test_sym_128_refused : Instr.wellFormed .default (.sym 128) = false := by decide
theorem test_symNeg_0_refused : Instr.wellFormed .default (.symNeg 0) = false := by decide
theorem test_symNeg_below_refused : Instr.wellFormed .default (.symNeg (-129)) = false := by decide

/-! ## Decoding, every operation, from the tables of R71 to R75 -/

theorem test_decode_hold : decode .default .H 0b0_1_00000101_00000010 = .ok (.hold true 5 2) := rfl
theorem test_decode_transmit : decode .default .H 0b1_1_00000101_00000010 = .ok (.transmit 5 2) := rfl
theorem test_decode_transmitDflt : decode .default .H 0b1_0_01111111_00000010 = .ok (.transmitDflt 0x7F 2) := rfl
theorem test_decode_sym : decode .default .S 0b0_1111111 = .ok (.sym 127) := rfl
theorem test_decode_symNeg : decode .default .S 0b1_1111111 = .ok (.symNeg (-1)) := rfl
theorem test_decode_configure : decode .default .P 0b00 = .ok .configure := rfl
theorem test_decode_setHigh : decode .default .P 0b01 = .ok .setHigh := rfl
theorem test_decode_setLow : decode .default .P 0b10 = .ok .setLow := rfl
theorem test_decode_release : decode .default .P 0b11 = .ok .release := rfl
theorem test_decode_waitSon : decode .default .T 0b000 = .ok .waitSon := rfl
theorem test_decode_waitLon : decode .default .T 0b001 = .ok .waitLon := rfl
theorem test_decode_waitSoff : decode .default .T 0b010 = .ok .waitSoff := rfl
theorem test_decode_waitLoff : decode .default .T 0b011 = .ok .waitLoff := rfl
theorem test_decode_waitHres : decode .default .T 0b100 = .ok .waitHres := rfl
theorem test_decode_waitRres : decode .default .T 0b101 = .ok .waitRres := rfl
theorem test_decode_reserved6 : decode .default .T 0b110 = .error .reservedWait := rfl
theorem test_decode_reserved7 : decode .default .T 0b111 = .error .reservedWait := rfl
theorem test_decode_data : decode .default .D 0x302 = .error .dataFormat := rfl
theorem test_decode_tooWide : decode .default .P 4 = .error .tooWide := rfl
/-- `DIR[2] = 0x00302` of 95_test_vectors.md: base 3, len 2. -/
theorem test_decodeDir : decodeDir .default 0x302 = ⟨3, 2⟩ := by decide

/-- The table's fifteen rows at their widths (spec/opcode_table.json). -/
theorem test_table_words :
    [decodeTableWord 18 0x00000, decodeTableWord 18 0x30000, decodeTableWord 18 0x20000, decodeTableWord 8 0x00,
      decodeTableWord 8 0x80, decodeTableWord 2 0, decodeTableWord 2 1, decodeTableWord 2 2, decodeTableWord 2 3,
      decodeTableWord 3 0, decodeTableWord 3 1, decodeTableWord 3 2, decodeTableWord 3 3, decodeTableWord 3 4,
      decodeTableWord 3 5] =
    [some (.hold false 0 0), some (.transmit 0 0), some (.transmitDflt 0 0), some (.sym 0), some (.symNeg (-128)),
      some .configure, some .setHigh, some .setLow, some .release, some .waitSon, some .waitLon, some .waitSoff,
      some .waitLoff, some .waitHres, some .waitRres] := by decide

/-! ## The small machine of the tests: the ROM image and the parameters of 95_test_vectors.md -/

def illMem : Memory :=
  let m := ((((Memory.empty.loadConst 0 2).loadConst 1 5).loadConst 2 3).loadConst 3 7)
  let m := (m.loadConst 4 20).loadConst 5 30
  let m := ((((m.loadDir 1 0x00003).loadDir 2 0x00302).loadDir 3 0x00502).loadDir 4 0x00604).loadDir 5 0x00701
  ((((m.loadSym 3 2).loadSym 4 1).loadSym 5 1).loadSym 6 0xFF).loadSym 7 0x7F

/-- Idle, after reset. -/
def ill : State := State.resetWith illMem ⟨.default, 2, 6, 8⟩

/-- In the phase `p` of a transmission of command 2, `[2, 1]`, two repeats to do; the driver answers `a`. -/
def inPhase (p : Phase) (a : List Answer) : State :=
  { ill with
    cmd_r := 2, base_r := 3, len_r := 2, phase := p, rep_left := 2, sync_left := 2, answers := a
    busy := true, tx_oe := p.acquired, tx := p.high }

/-- An idle block to which the host presents the word `w`. -/
def presented (w : Nat) : State := { ill with hostIn := [⟨false, w⟩] }

/-- The next state of an outcome, when there is one. -/
def nextOf : Result → Option State
  | .next s => some s
  | .fault _ => none
  | .refused _ => none

theorem next_of {r : Result} (h : (nextOf r).isSome = true) : ∃ t, r = .next t := by
  cases r with
  | next t => exact ⟨t, rfl⟩
  | fault _ => cases h
  | refused _ => cases h

theorem test_illMem_const : illMem.const = [(0, 2), (1, 5), (2, 3), (3, 7), (4, 20), (5, 30)] := by decide
/-- Writing the value an unlisted word reads as removes the entry. -/
theorem test_load_default_removes : (illMem.loadSym 3 0).sym = [(4, 1), (5, 1), (6, 0xFF), (7, 0x7F)] := by decide

/-! ## One step of each operation (rules at the operation's meaning; worked examples of R150, R151, R145; vectors D3 to D6) -/

theorem test_hold : (nextOf (step (presented 0x1FFFF))).map (fun t => (t.phase, t.busy, t.cmd_r, t.edge)) =
    some (.idle, false, 0, 1) := by decide
theorem test_transmit : (nextOf (step (presented 0x30502))).map (fun t => (t.phase, t.busy, t.cmd_r, t.rep_left)) =
    some (.validate, true, 2, 5) := by decide
theorem test_transmitDflt : (nextOf (step (presented 0x27F02))).map (fun t => (t.phase, t.busy, t.cmd_r, t.rep_left)) =
    some (.validate, true, 2, 3) := by decide
/-- Vector D3, step 11: `SYM[3] = 0x02`, `long_left <- 2`, after a wait of 17. -/
theorem test_sym : (nextOf (step (inPhase .hdrRes []))).map (fun t => (t.phase, t.long_left, t.sym_idx, t.edge)) =
    some (.bodyHi, 2, 0, 17) := by decide
/-- Vector D5: command 3 is `[1, -1]`. -/
theorem test_symNeg : (nextOf (step { inPhase .validate [] with cmd_r := 3 })).map
    (fun t => (t.phase, t.err, t.done, t.trace)) = some (.idle, 1, true, []) := by decide
theorem test_configure : (nextOf (step (inPhase .config [.ok]))).map
    (fun t => (t.phase, t.tx_oe, t.sync_left, t.trace)) = some (.hdrHi, true, 2, [.configure]) := by decide
/-- Vector D6. -/
theorem test_configure_fails : (nextOf (step (inPhase .config [.fail]))).map
    (fun t => (t.phase, t.tx_oe, t.err, t.trace)) = some (.idle, false, 3, [.req .configure true]) := by decide
theorem test_setHigh : (nextOf (step (inPhase .hdrHi [.ok]))).map
    (fun t => (t.phase, t.tx, t.drv_op, t.trace)) = some (.hdrHiW, true, 1, [.setHigh]) := by decide
theorem test_setHigh_fails : (nextOf (step (inPhase .bodyHi [.fail]))).map
    (fun t => (t.phase, t.tx, t.err, t.trace)) = some (.release, false, 2, [.req .setHigh true]) := by decide
theorem test_setLow : (nextOf (step (inPhase .bodyLo [.ok]))).map
    (fun t => (t.phase, t.tx, t.drv_op, t.trace)) = some (.bodyLoW, false, 2, [.setLow]) := by decide
/-- Vector D4: the abort forces `tx` to 0. -/
theorem test_setLow_fails : (nextOf (step (inPhase .bodyLo [.fail]))).map
    (fun t => (t.phase, t.tx, t.err, t.trace)) = some (.release, false, 2, [.req .setLow true]) := by decide
theorem test_release : (nextOf (step { inPhase .release [.fail] with err := 2 })).map
    (fun t => (t.phase, t.tx_oe, t.done, t.err)) = some (.idle, false, true, 2) := by decide
theorem test_waitSon : (nextOf (step (inPhase .hdrHiW []))).map
    (fun t => (t.phase, t.tx, t.edge, t.trace)) = some (.hdrLo, true, 2, [.wait 2]) := by decide
theorem test_waitLon : (nextOf (step { inPhase .bodyHiW [] with long_left := 1 })).map
    (fun t => (t.phase, t.long_left, t.edge, t.trace)) = some (.bodyLo, 1, 5, [.wait 5]) := by decide
theorem test_waitSoff : (nextOf (step { inPhase .bodyLoW [] with long_left := 1 })).map
    (fun t => (t.phase, t.long_left, t.edge, t.trace)) = some (.bodyHi, 0, 3, [.wait 3]) := by decide
/-- Vector D3, step 33: the body is complete, `rep_left <- 1`. -/
theorem test_waitLoff : (nextOf (step { inPhase .grpGap [] with sym_idx := 1 })).map
    (fun t => (t.phase, t.rep_left, t.sym_idx, t.trace)) = some (.repGap, 1, 2, [.wait 7]) := by decide
/-- Worked example of R145. -/
theorem test_waitHres : (nextOf (exec .waitHres (inPhase .hdrRes []))).map
    (fun t => (t.phase, t.edge, t.trace)) = some (.hdrRes, 17, [.wait 17]) := by decide
theorem test_waitRres : (nextOf (step (inPhase .repGap []))).map
    (fun t => (t.phase, t.sync_left, t.edge, t.trace)) = some (.hdrHi, 2, 27, [.wait 27]) := by decide

/-! ## Other widths: `ID_W = 4`, `REP_W = 3`, `SYM_W = 5`, `ADDR_W = 6`, `LEN_W = 3`, `TMR_W = 6` (00_scope.md R10). The words are written from R71 to R73 -/

/-- The other widths. -/
def narrow : Widths := ⟨4, 3, 5, 6, 3, 6⟩

theorem test_narrow_decode_transmit : decode narrow .H 0b1_1_101_0010 = .ok (.transmit 5 2) := rfl
theorem test_narrow_decode_hold : decode narrow .H 0b0_1_111_1111 = .ok (.hold true 7 15) := rfl
theorem test_narrow_decode_tooWide : decode narrow .H 0b1_0_0_000_0000 = .error .tooWide := rfl
theorem test_narrow_decode_sym : decode narrow .S 0b0_1111 = .ok (.sym 15) := rfl
theorem test_narrow_decode_symNeg : decode narrow .S 0b1_0000 = .ok (.symNeg (-16)) := rfl
theorem test_narrow_decodeDir : decodeDir narrow 0b000011_010 = ⟨3, 2⟩ := by decide
theorem test_narrow_sym_16_refused : Instr.wellFormed narrow (.sym 16) = false := by decide
/-- Idle, with the narrow widths and one command, `[2, 1]`; the host presents a start of 5 repeats of it, above bits that no port carries. -/
def narrowState : State :=
  let m := ((illMem.loadDir 2 0b000011_010).loadDir 1 0).loadSym 6 0
  let m := (((m.loadDir 3 0).loadDir 4 0).loadDir 5 0).loadSym 7 0
  { State.resetWith m ⟨narrow, 2, 6, 8⟩ with hostIn := [⟨false, 0b11_1_1_101_0010⟩] }
theorem test_narrow_transmit : (nextOf (step narrowState)).map (fun t => (t.phase, t.busy, t.cmd_r, t.rep_left)) =
    some (.validate, true, 2, 5) := by decide
theorem test_narrow_catalog : narrowState.catalog 2 = some [2, 1] := by decide

/-! ## Placing a word where the next step fetches it: the operation runs as the first one after reset -/

theorem test_place_hold : (nextOf (step (State.reset.withFetchWord 18 0x00000))).map (fun t => (t.phase, t.edge)) =
    some (.idle, 1) := by decide
theorem test_place_transmit : (nextOf (step (State.reset.withFetchWord 18 0x30502))).map
    (fun t => (t.phase, t.cmd_r, t.rep_left)) = some (.validate, 2, 5) := by decide
theorem test_place_sym : (nextOf (step (State.reset.withFetchWord 8 0x7F))).map (fun t => (t.phase, t.long_left)) =
    some (.bodyHi, 127) := by decide
theorem test_place_symNeg : (nextOf (step (State.reset.withFetchWord 8 0x80))).map (fun t => (t.phase, t.err)) =
    some (.idle, 1) := by decide
theorem test_place_setHigh : (nextOf (step (State.reset.withFetchWord 2 1))).map (fun t => (t.tx, t.drv_op)) =
    some (true, 1) := by decide
theorem test_place_release : (nextOf (step (State.reset.withFetchWord 2 3))).map (fun t => (t.phase, t.drv_op)) =
    some (.idle, 3) := by decide
theorem test_place_waitLon : (nextOf (step (State.reset.withFetchWord 3 1))).map (fun t => (t.phase, t.trace)) =
    some (.bodyLo, [.wait 1]) := by decide

/-! ## The functions: examples of 95_test_vectors.md and 42_transmitter.md -/

theorem test_encode : encodeCommand [2, 1] = .ok [[.longOn, .longOn, .shortOn], [.longOn, .shortOn]] := rfl
theorem test_encode_negative : encodeCommand [1, -1] = .error .invalidCommand := rfl
/-- Vector D4: 14 events, the error `DriverFault`. -/
theorem test_cut : ((cutTrace (transmitOk illMem 2 [2, 1] 3)
    [false, false, false, false, false, false, true]).1.length,
    (cutTrace (transmitOk illMem 2 [2, 1] 3) [false, false, false, false, false, false, true]).2) =
    (14, some .driverFault) := by decide
/-- Vector D3: a unit takes 75 ticks, two repeats 177. -/
theorem test_durations : (unitTicks illMem 2 [2, 1], totalTicks illMem 2 [2, 1] 2) = (75, 177) := by decide

/-! ## Witnesses: a state that meets all hypotheses of a statement together, each clause of it -/

theorem witness_DecodeOfEncodeIsIdentity : Instr.wellFormed .default (.sym 127) = true ∧ Instr.wellFormed .default (.symNeg (-128)) = true ∧
    Instr.wellFormed .default (.hold true 255 255) = true ∧ Widths.default.ok = true := by decide
theorem witness_DirectoryWordFields : 0xFFF < 2 ^ Widths.default.addrW ∧ 0xFF < 2 ^ Widths.default.lenW ∧
    0xFFFFF < 2 ^ (Widths.default.addrW + Widths.default.lenW) := by decide
theorem witness_EncodeOfDecodeIsIdentity : Widths.default.ok = true ∧ decode .default .H 0x3FFFF = .ok (.transmit 255 255) := ⟨by decide, rfl⟩
theorem witness_TransmitStartsATransmission : ill.paramsOk = true ∧ ill.busy = false ∧
    255 < 2 ^ ill.params.widths.repW ∧ 255 < 2 ^ ill.params.widths.idW := by decide
theorem witness_TransmitDefaultSendsThreeRepeats : State.reset.paramsOk = true ∧ State.reset.busy = false ∧
    255 < 2 ^ State.reset.params.widths.repW ∧ 255 < 2 ^ State.reset.params.widths.idW := by decide
theorem witness_HoldAndStartWhileBusyChangeNothing : ill.paramsOk = true ∧ (inPhase .hdrHi []).paramsOk = true ∧
    (inPhase .hdrHi []).busy = true ∧ 255 < 2 ^ ill.params.widths.repW ∧ 255 < 2 ^ ill.params.widths.idW := by decide
theorem witness_SymbolStartsItsGroup : (inPhase .hdrRes []).paramsOk = true ∧
    127 < 2 ^ ((inPhase .hdrRes []).params.widths.symW - 1) := by decide
theorem witness_NegativeSymbolRaisesInvalidCommand :
    (inPhase .validate []).paramsOk = true ∧
    -(2 ^ ((inPhase .validate []).params.widths.symW - 1)) ≤ (-128 : Int) ∧ (-128 : Int) < 0 ∧
    -(2 ^ ((inPhase .validate []).params.widths.symW - 1)) ≤ (-1 : Int) ∧ (-1 : Int) < 0 := by decide
theorem witness_ConfigureAcquiresThePin : (inPhase .config [.ok]).paramsOk = true ∧
    (inPhase .config [.ok]).nextAnswer = .ok ∧ (inPhase .config [.fail]).nextAnswer = .fail := by decide
theorem witness_SetHighAndSetLowDriveThePin : (inPhase .hdrHi [.ok]).paramsOk = true ∧
    (inPhase .hdrHi [.ok]).nextAnswer = .ok ∧ (inPhase .hdrLo [.fail]).nextAnswer = .fail := by decide
theorem witness_ReleaseGivesThePinBack : (inPhase .release []).paramsOk = true := by decide
theorem witness_WaitDurationsComeFromTheConstantStore : ill.paramsOk = true ∧ ill.mem.duration .hres = 17 ∧
    ill.mem.duration .rres = 27 := by decide
theorem witness_WaitLastsExactlyItsDuration : (inPhase .hdrHiW []).paramsOk = true ∧
    NoResetWithin ((inPhase .hdrHiW []).mem.duration .son)
      { inPhase .hdrHiW [] with hostIn := [⟨false, 0⟩, ⟨false, 0⟩, ⟨true, 0⟩] } := by decide
theorem witness_ResetEndsAWaitAtItsEdge :
    let s := { inPhase .hdrHiW [] with hostIn := [⟨false, 0⟩, ⟨true, 0⟩] }
    (Dsel.son, Instr.waitSon) ∈ waitOps ∧ s.paramsOk = true ∧ 1 < s.mem.duration .son ∧ NoResetWithin 1 s ∧
      s.hostIn[1]? = some ⟨true, 0⟩ := by decide
theorem witness_ResetWinsAtTheNextEdge :
    let h : List HostIn := [⟨true, 0x30502⟩]
    (({ ill with hostIn := h }).paramsOk = true ∧ ({ ill with hostIn := h }).nextIn.rst = true ∧ ill.phase = .idle) ∧
    (({ inPhase .validate [] with hostIn := h, setup_left := 1 }).nextIn.rst = true ∧
      ({ inPhase .validate [] with hostIn := h, setup_left := 1 }).setup_left ≠ 0) ∧
    ({ inPhase .hdrLoW [] with hostIn := h }).waitSel = some .soff ∧ illMem.duration .soff ≠ 0 := by decide
theorem witness_EachPhaseFetchesItsOperation : (inPhase .bodyHiW []).long_left = 0 ∧
    ({ inPhase .bodyHiW [] with long_left := 1 }).long_left ≠ 0 := by decide
theorem witness_StepRunsTheFetchedOperation :
    (presented 0x30502).paramsOk = true ∧ (presented 0x30502).phase = .idle ∧ (presented 0x30502).nextIn.rst = false ∧
    decode .default .H (presented 0x30502).hostWord = .ok (.transmit 5 2) ∧
    (inPhase .hdrRes []).phase ≠ .idle ∧ (inPhase .hdrRes []).tmr = 0 ∧
    (inPhase .hdrRes []).fetch = some (.T, 4) ∧ decode .default .T 4 = .ok .waitHres :=
  ⟨by decide, by decide, by decide, rfl, by decide, by decide, by decide, rfl⟩
theorem witness_StepTableOfDriverPhases : (inPhase .config [.ok]).paramsOk = true ∧
    (inPhase .config [.ok]).nextAnswer = .ok ∧ (inPhase .config [.ok]).rep_left ≠ 0 ∧
    ({ inPhase .config [.ok] with rep_left := 0 }).rep_left = 0 := by decide
theorem witness_DriverFailureTakesItsError : (inPhase .config [.fail]).paramsOk = true ∧
    (inPhase .config [.fail]).nextAnswer = .fail := by decide
theorem witness_StepTableOfWaitPhases : (inPhase .hdrLoW []).paramsOk = true ∧ (inPhase .hdrLoW []).tmr = 0 ∧
    NoReset (inPhase .hdrLoW []) ∧ 1 < (inPhase .hdrLoW []).sync_left ∧
    ({ inPhase .hdrLoW [] with sync_left := 1 }).sync_left = 1 ∧ (inPhase .bodyLoW []).long_left = 0 ∧
    ({ inPhase .bodyLoW [] with long_left := 127 }).long_left ≠ 0 := by decide
theorem witness_DispatchFetchesTheNextSymbol :
    let s := { inPhase .grpGap [] with sym_idx := 1 }
    (s.paramsOk = true ∧ s.tmr = 0 ∧ NoReset s ∧ CommandValid s ∧ s.phase = .grpGap ∧ s.sym_idx < s.len_r ∧
      s.len_r ≤ (s.sym_idx + 1) ∧ 1 < s.rep_left ∧ ({ s with rep_left := 1 }).rep_left = 1) ∧
    CommandValid (inPhase .hdrRes []) ∧ 0 < (inPhase .hdrRes []).len_r := by decide
theorem witness_WaitInProgressRunsToItsEnd :
    let s := { inPhase .hdrHiW [] with tmr := 1 }
    s.paramsOk = true ∧ s.waitSel = some .son ∧ s.tmr ≠ 0 ∧ NoResetWithin s.tmr s := by decide
theorem witness_SetupTimePassesBeforeValidation :
    let s := { inPhase .validate [] with setup_left := 1 }
    s.paramsOk = true ∧ s.phase = .validate ∧ s.setup_left ≠ 0 ∧ NoResetWithin s.setup_left s := by decide
theorem witness_ValidationAcceptsExactlyValidCommands :
    let s := inPhase .validate []
    (s.paramsOk = true ∧ s.phase = .validate ∧ s.setup_left = 0) ∧
    s.params.nCmds ≤ 6 ∧ 4 < s.params.nCmds ∧
    (0 < (s.dirEntry 4).len ∧
      s.params.symDepth < (s.dirEntry 4).base + (s.dirEntry 4).len) ∧
    symInt .default (s.mem.readSym ((s.dirEntry 3).base + 1)) < 0 ∧ (s.dirEntry 0).len = 0 ∧
    (s.dirEntry 5).base + (s.dirEntry 5).len = s.params.symDepth ∧
    0 ≤ symInt .default (s.mem.readSym ((s.dirEntry 5).base + 0)) := by decide
theorem witness_ReservedPhaseAndBadParametersAreRefused :
    (inPhase .reserved []).paramsOk = true ∧ (inPhase .reserved []).phase = .reserved ∧
    Instr.wellFormed .default (.sym 127) = true ∧ ({ ill with params := ⟨.default, 0, 6, 8⟩ }).paramsOk = false ∧
    ({ ill with params := ⟨.default, 256, 6, 8⟩ }).paramsOk = false ∧
    ({ ill with params := ⟨⟨8, 1, 8, 12, 8, 32⟩, 2, 6, 8⟩ }).paramsOk = false := by decide

/-- One state of the invariant for each kind of step. -/
theorem witness_Invariant : Invariant ill ∧ Invariant (inPhase .validate []) ∧ Invariant (inPhase .config [.ok]) ∧
    Invariant (inPhase .hdrHi [.ok]) ∧ Invariant (inPhase .hdrLoW []) ∧ Invariant (inPhase .hdrRes []) ∧
    Invariant (inPhase .bodyLo [.fail]) ∧ Invariant (inPhase .grpGap []) ∧
    Invariant { inPhase .release [.ok] with err := 2 } :=
  ⟨by decide, by decide, by decide, by decide, by decide, by decide, by decide, by decide, by decide⟩
theorem witness_StepKeepsTheInvariant : Invariant (inPhase .hdrRes []) ∧ ∃ t, step (inPhase .hdrRes []) = .next t :=
  ⟨by decide, next_of (by decide)⟩
theorem witness_TickStepKeepsTheInvariant :
    Invariant (inPhase .hdrRes []) ∧ ∃ t, tickStep (inPhase .hdrRes []) = .next t :=
  ⟨by decide, next_of (by decide)⟩
theorem witness_InvariantHoldsAtReset : (State.resetWith illMem ⟨.default, 2, 6, 8⟩).paramsOk = true ∧ illMem.wf := by decide
theorem witness_ReachableStatesSatisfyTheStatedInvariants : (State.resetWith illMem ⟨.default, 2, 6, 8⟩).paramsOk = true ∧ illMem.wf ∧
    (∃ s, Sys2Proof.core.run 1 { State.resetWith illMem ⟨.default, 2, 6, 8⟩ with hostIn := [⟨false, 0x30502⟩], answers := [.ok] } =
      .next s) ∧
    ∃ s, tickRun 1 { State.resetWith illMem ⟨.default, 2, 6, 8⟩ with hostIn := [⟨false, 0x30502⟩], answers := [.ok] } = .next s :=
  ⟨by decide, by decide,
    next_of (r := Sys2Proof.core.run 1 { ill with hostIn := [⟨false, 0x30502⟩], answers := [.ok] }) (by decide),
    next_of (by decide)⟩
theorem witness_SafeStatesNeverStop : Invariant (inPhase .validate [.fail]) := by decide
theorem witness_StoresAreNeverWritten : (∃ t, step (inPhase .grpGap []) = .next t) ∧
    (∃ t, tickStep (inPhase .grpGap []) = .next t) ∧ ∃ t, exec .release (inPhase .release [.ok]) = .next t :=
  ⟨next_of (by decide), next_of (by decide), next_of (by decide)⟩
theorem witness_OperandsStayLatched : NoReset (inPhase .config [.ok]) ∧ (inPhase .config [.ok]).phase ≠ .idle ∧
    (inPhase .config [.ok]).phase ≠ .validate ∧ ∃ t, step (inPhase .config [.ok]) = .next t :=
  ⟨by decide, by decide, by decide, next_of (by decide)⟩
theorem witness_HostWordsAreIgnoredWhileBusy :
    let s := { inPhase .hdrHiW [] with hostIn := [⟨false, 0⟩, ⟨false, 0⟩, ⟨true, 0⟩] }
    s.phase ≠ .idle ∧ [HostIn.mk false 0x30502, ⟨false, 0x3FFFF⟩, ⟨true, 1⟩].map HostIn.rst = s.hostIn.map HostIn.rst ∧
      ∃ t, step s = .next t := ⟨by decide, by decide, next_of (by decide)⟩
theorem witness_ErrIsWrittenOnlyByErrorsAndStarts : Invariant (inPhase .bodyHi [.fail]) ∧ NoReset (inPhase .bodyHi [.fail]) ∧
    ∃ t, step (inPhase .bodyHi [.fail]) = .next t := ⟨by decide, by decide, next_of (by decide)⟩
theorem witness_OnlyTheseStepsEndATransmission : Invariant (inPhase .config [.fail]) ∧ NoReset (inPhase .config [.fail]) ∧
    (inPhase .config [.fail]).phase ≠ .idle ∧
    ∃ t, step (inPhase .config [.fail]) = .next t ∧ t.phase = .idle :=
  ⟨by decide, by decide, by decide, _, rfl, rfl⟩
theorem witness_AcquiredPinIsGivenUpOnlyByRelease : Invariant (inPhase .release [.ok]) ∧ NoReset (inPhase .release [.ok]) ∧
    (inPhase .release [.ok]).tx_oe = true ∧ ∃ t, step (inPhase .release [.ok]) = .next t ∧ t.tx_oe = false :=
  ⟨by decide, by decide, by decide, _, rfl, rfl⟩
theorem witness_RequestsShowOnThePort : Invariant (inPhase .hdrLo [.ok]) ∧ (inPhase .hdrLo [.ok]).drv_req = false ∧
    ∃ t, step (inPhase .hdrLo [.ok]) = .next t := ⟨by decide, by decide, next_of (by decide)⟩
theorem witness_TxIsTheLevelOfTheTrace :
    let s := { inPhase .hdrLo [.ok] with trace := [.configure, .setHigh, .wait 2] }
    Invariant s ∧ NoReset s ∧ traceLevel s.trace = s.tx ∧ ∃ t, step s = .next t :=
  ⟨by decide, by decide, by decide, next_of (by decide)⟩
theorem witness_SymbolSendsItsGroup :
    let s := inPhase .bodyHi [.ok, .ok]
    Invariant s ∧ NoReset s ∧ s.phase = .bodyHi ∧ s.long_left = 0 ∧ ∀ j, j < 2 * (0 + 1) → s.failsAt j = false :=
  ⟨by decide, by decide, by decide, by decide, by decide⟩
theorem witness_MachineTraceIsTheFunctionalTrace :
    (Invariant (inPhase .validate []) ∧ NoReset (inPhase .validate []) ∧ (inPhase .validate []).phase = .validate ∧
      (inPhase .validate []).catalog (inPhase .validate []).cmd_r = some ([2, 1].map Int.ofNat)) ∧
    ∀ c : List Nat, ({ inPhase .validate [] with cmd_r := 200 }).catalog 200 ≠ some (c.map Int.ofNat) :=
  ⟨⟨by decide, by decide, by decide, by decide⟩, fun c h => by
    have e : ({ inPhase .validate [] with cmd_r := 200 }).catalog 200 = none := by decide
    rw [e] at h
    cases h⟩
theorem witness_TransmissionTakesOnlyItsWaits :
    let s := { inPhase .validate [] with setup_left := 4 }
    Invariant s ∧ NoReset s ∧ s.phase = .validate ∧ s.catalog s.cmd_r = some ([2, 1].map Int.ofNat) :=
  ⟨by decide, by decide, by decide, by decide⟩
theorem witness_ZeroRepeatsSendNothing :
    let s := { inPhase .validate [.ok] with rep_left := 0 }
    Invariant s ∧ NoReset s ∧ s.phase = .validate ∧ s.rep_left = 0 ∧
      s.catalog s.cmd_r = some ([2, 1].map Int.ofNat) ∧ s.failsAt 0 = false ∧
      ({ s with answers := [.fail] }).failsAt 0 = true :=
  ⟨by decide, by decide, by decide, by decide, by decide, by decide, by decide⟩
theorem witness_FailedReleaseIsIgnored : (inPhase .release [.fail]).paramsOk = true ∧
    (inPhase .release [.fail]).nextAnswer = .fail ∧ (inPhase .release [.fail]).phase = .release := by decide
theorem witness_TimerCountsDownOnePerTick :
    ({ inPhase .hdrHiW [] with tmr := 2 }).paramsOk = true ∧ ({ inPhase .hdrHiW [] with tmr := 2 }).waitSel = some .son ∧
    1 < ({ inPhase .hdrHiW [] with tmr := 2 }).tmr ∧ (inPhase .hdrHiW []).nextIn.rst = false ∧
    (inPhase .hdrHiW []).tmr = 0 ∧ (inPhase .hdrHiW []).mem.duration .son ≠ 0 ∧
    ({ inPhase .hdrHiW [] with tmr := 1 }).tmr = 1 := by decide
theorem witness_EncodedCommandHasTheStatedShape : ([0, 127] : List Nat)[1]? = some 127 := by decide
theorem witness_EncodeRejectsExactlyNegatives : ∀ n ∈ ([0, 127] : List Int), 0 ≤ n := by decide
theorem witness_ReleaseExactlyWhenAcquired :
    ([false] : List Bool).headD false = false ∧ ([true] : List Bool).headD false = true := by decide
theorem witness_UnitWaveform : ill.paramsOk = true ∧ ({ ill with params := ⟨.default, 1, 6, 8⟩ }).paramsOk = true := by decide
theorem witness_RegistersFitTheirWidths : narrowState.paramsOk = true ∧ narrowState.mem.wf ∧ illMem.wf ∧
    (∃ s, Sys2Proof.core.run 1 narrowState = .next s) ∧ ∃ s, tickRun 1 narrowState = .next s :=
  ⟨by decide, by decide, by decide, next_of (r := Sys2Proof.core.run 1 narrowState) (by decide), next_of (by decide)⟩

end Sys2Proof.Tests
end

section
/-! SUPPORT. Words made of fields side by side: the slices of such a word are its fields, and a word is its slices side by side. With
these the decoder and the encoder undo each other, format by format (30_encoding.md R71 to R75). -/
namespace Sys2Proof

/-! ## Fields side by side -/

/-- A value that fits is its own low slice. -/
theorem slice_zero_of_lt {a n : Nat} (h : a < 2 ^ n) : slice a 0 n = a := by
  rw [slice, pow_zero, Nat.div_one, Nat.mod_eq_of_lt h]

/-- The low slice of two fields side by side is the lower field. -/
theorem slice_append_low (a : Nat) {b n : Nat} (hb : b < 2 ^ n) : slice (a * 2 ^ n + b) 0 n = b := by
  rw [slice, pow_zero, Nat.div_one, Nat.mul_add_mod', Nat.mod_eq_of_lt hb]

/-- A slice above the lower of two fields side by side is a slice of the upper one. -/
theorem slice_append_high (a lo k : Nat) {b n : Nat} (hb : b < 2 ^ n) :
    slice (a * 2 ^ n + b) (lo + n) k = slice a lo k := by
  have hdiv : (a * 2 ^ n + b) / 2 ^ n = a := by
    rw [Nat.mul_comm, Nat.mul_add_div (Nat.two_pow_pos n), Nat.div_eq_of_lt hb, Nat.add_zero]
  rw [slice, Nat.add_comm lo n, Nat.pow_add, ← Nat.div_div_eq_div_mul, hdiv, slice]

/-- Two slices side by side are the slice of both widths. -/
theorem slice_append_slice (w lo m n : Nat) :
    slice w (lo + n) m * 2 ^ n + slice w lo n = slice w lo (m + n) := by
  simp only [slice]
  rw [Nat.pow_add 2 lo n, ← Nat.div_div_eq_div_mul, Nat.add_comm m n, Nat.pow_add, Nat.mod_mul, Nat.mul_comm,
    Nat.add_comm]

/-- A slice of one bit, as the flag it encodes. -/
theorem toNat_slice_one (w lo : Nat) : (decide (slice w lo 1 = 1)).toNat = slice w lo 1 := by
  have h : slice w lo 1 < 2 := Machine.slice_lt w lo 1
  interval_cases slice w lo 1 <;> rfl

/-! ## Format D -/

theorem decodeDir_encodeDir {W : Widths} {e : DirEntry} (hb : e.base < 2 ^ W.addrW) (hl : e.len < 2 ^ W.lenW) :
    decodeDir W (encodeDir W e) = e := by
  have hbase := slice_append_high e.base 0 W.addrW hl
  rw [Nat.zero_add, slice_zero_of_lt hb] at hbase
  rw [decodeDir, encodeDir, hbase, slice_append_low e.base hl]

theorem encodeDir_decodeDir {W : Widths} {w : Nat} (hw : w < 2 ^ (W.addrW + W.lenW)) :
    encodeDir W (decodeDir W w) = w := by
  have h := slice_append_slice w 0 W.addrW W.lenW
  rwa [Nat.zero_add, slice_zero_of_lt hw] at h

/-- The fields of any directory word fit their widths. -/
theorem decodeDir_lt (W : Widths) (w : Nat) :
    (decodeDir W w).base < 2 ^ W.addrW ∧ (decodeDir W w).len < 2 ^ W.lenW :=
  ⟨Machine.slice_lt _ _ _, Machine.slice_lt _ _ _⟩

/-! ## Format H -/

/-- The host operation that two flags select, with its two operands (30_encoding.md R77). -/
def hostInstr (start repValid : Bool) (rep cmd : Nat) : Instr :=
  match start, repValid with
  | true, true => .transmit rep cmd
  | true, false => .transmitDflt rep cmd
  | false, rv => .hold rv rep cmd

theorem decodeH_eq_hostInstr (W : Widths) (w : Nat) : decodeH W w =
    hostInstr (decide (slice w (1 + W.repW + W.idW) 1 = 1)) (decide (slice w (W.repW + W.idW) 1 = 1))
      (slice w W.idW W.repW) (slice w 0 W.idW) := by
  unfold decodeH
  cases decide (slice w (W.repW + W.idW) 1 = 1) <;>
    by_cases hs : slice w (1 + W.repW + W.idW) 1 = 1 <;> simp [hs, hostInstr]

theorem encode_hostInstr (W : Widths) (start repValid : Bool) (rep cmd : Nat) :
    encode W (hostInstr start repValid rep cmd) = (.H, encodeH W start repValid rep cmd) := by
  cases start <;> cases repValid <;> rfl

theorem decodeH_encodeH {W : Widths} (start repValid : Bool) {rep cmd : Nat} (hrep : rep < 2 ^ W.repW)
    (hcmd : cmd < 2 ^ W.idW) : decodeH W (encodeH W start repValid rep cmd) = hostInstr start repValid rep cmd := by
  have hhigh (lo : Nat) : slice (encodeH W start repValid rep cmd) (lo + W.repW + W.idW) 1 =
      slice (start.toNat * 2 + repValid.toNat) lo 1 := by
    rw [encodeH, slice_append_high _ _ _ hcmd, slice_append_high _ _ _ hrep]
  have hrepValid := hhigh 0
  rw [Nat.zero_add] at hrepValid
  have hmid : slice (encodeH W start repValid rep cmd) W.idW W.repW = rep := by
    have h := slice_append_high ((start.toNat * 2 + repValid.toNat) * 2 ^ W.repW + rep) 0 W.repW hcmd
    rwa [Nat.zero_add, slice_append_low _ hrep] at h
  have hlow : slice (encodeH W start repValid rep cmd) 0 W.idW = cmd := slice_append_low _ hcmd
  rw [decodeH_eq_hostInstr, hhigh 1, hrepValid, hmid, hlow]
  cases start <;> cases repValid <;> rfl

/-- A format H word is its four slices side by side. -/
theorem encodeH_slices {W : Widths} {w : Nat} (hw : w < 2 ^ (2 + W.repW + W.idW)) :
    encodeH W (decide (slice w (1 + W.repW + W.idW) 1 = 1)) (decide (slice w (W.repW + W.idW) 1 = 1))
      (slice w W.idW W.repW) (slice w 0 W.idW) = w := by
  have hflags := slice_append_slice w (W.repW + W.idW) 1 1
  have hrep := slice_append_slice w W.idW 2 W.repW
  have hcmd := slice_append_slice w 0 (2 + W.repW) W.idW
  rw [Nat.add_comm (W.repW + W.idW) 1, ← Nat.add_assoc, pow_one] at hflags
  rw [Nat.add_comm W.idW] at hrep
  rw [Nat.zero_add, slice_zero_of_lt hw] at hcmd
  rw [encodeH, toNat_slice_one, toNat_slice_one, hflags, hrep, hcmd]

theorem encode_decodeH {W : Widths} {w : Nat} (hw : w < 2 ^ (2 + W.repW + W.idW)) :
    encode W (decodeH W w) = (.H, w) := by
  rw [decodeH_eq_hostInstr, encode_hostInstr, encodeH_slices hw]

/-! ## Format S -/

/-- A symbol word below the sign bit decodes to `SYM` of itself. -/
theorem decodeS_of_lt {W : Widths} {n : Nat} (hW : W.ok = true) (hn : n < 2 ^ (W.symW - 1)) : decodeS W n = .sym n := by
  have hlt : n < 2 ^ W.symW := Nat.lt_of_lt_of_le hn (Nat.pow_le_pow_right (by decide) (Nat.sub_le _ _))
  have hpos : ¬ symNegative W n = true := fun h => absurd ((Machine.symNegative_iff hW hlt).mp h) (Nat.not_le.mpr hn)
  rw [decodeS, if_neg hpos, slice_zero_of_lt hn]

/-- The two's complement word of a negative value decodes to `SYM.NEG` of it. -/
theorem decodeS_twosComplement {W : Widths} {n : Int} (hW : W.ok = true) (hlo : -(2 ^ (W.symW - 1)) ≤ n) (hn : n < 0) :
    decodeS W (n + 2 ^ W.symW).toNat = .symNeg n := by
  have hpow : (2 : Int) ^ W.symW = 2 * 2 ^ (W.symW - 1) := by exact_mod_cast Machine.two_pow_symW hW
  have hword : ((n + 2 ^ W.symW).toNat : Int) = n + 2 ^ W.symW := Int.toNat_of_nonneg (by omega)
  have hlt : (n + 2 ^ W.symW).toNat < 2 ^ W.symW := by zify; omega
  have hneg : symNegative W (n + 2 ^ W.symW).toNat = true :=
    (Machine.symNegative_iff hW hlt).mpr (by zify; omega)
  rw [decodeS, if_pos hneg, symInt, if_pos hneg, hword, Int.add_sub_cancel]

theorem encode_decodeS {W : Widths} {w : Nat} (hW : W.ok = true) (hw : w < 2 ^ W.symW) :
    (decodeS W w).wellFormed W = true ∧ encode W (decodeS W w) = (.S, w) := by
  rcases Machine.symInt_cases hW hw with ⟨hneg, hrange⟩ | ⟨-, hlt, -⟩
  · have hint : symInt W w = (w : Int) - 2 ^ W.symW := if_pos hneg
    rw [decodeS, if_pos hneg]
    refine ⟨by simpa [Instr.wellFormed] using hrange, ?_⟩
    rw [encode, hint, Int.sub_add_cancel, Int.toNat_natCast]
  · rw [decodeS_of_lt hW hlt]
    exact ⟨decide_eq_true hlt, rfl⟩

/-! ## Formats P and T -/

/-- Every two-bit word is the code of a request: format P has no reserved code (30_encoding.md R74). -/
theorem exists_drvCode {w : Nat} (hw : w < 2 ^ 2) : ∃ op : DrvOp, op.code.toNat = w := by
  interval_cases w
  · exact ⟨.configure, rfl⟩
  · exact ⟨.setHigh, rfl⟩
  · exact ⟨.setLow, rfl⟩
  · exact ⟨.release, rfl⟩

/-- A three-bit word that decodes is the code of a duration select, and not reserved (30_encoding.md R75). -/
theorem exists_dselCode {w : Nat} {i : Instr} (hw : w < 2 ^ 3) (h : decodeT (BitVec.ofNat 3 w) = .ok i) :
    ∃ d : Dsel, d.code.toNat = w := by
  interval_cases w
  · exact ⟨.son, rfl⟩
  · exact ⟨.lon, rfl⟩
  · exact ⟨.soff, rfl⟩
  · exact ⟨.loff, rfl⟩
  · exact ⟨.hres, rfl⟩
  · exact ⟨.rres, rfl⟩
  · cases h
  · cases h

theorem encode_drvInstr (W : Widths) (op : DrvOp) : encode W op.instr = (.P, op.code.toNat) := by
  cases op <;> rfl

theorem encode_dselInstr (W : Widths) (d : Dsel) : encode W d.instr = (.T, d.code.toNat) := by
  cases d <;> rfl

theorem drvInstr_wellFormed (W : Widths) (op : DrvOp) : op.instr.wellFormed W = true := by
  cases op <;> rfl

theorem dselInstr_wellFormed (W : Widths) (d : Dsel) : d.instr.wellFormed W = true := by
  cases d <;> rfl

/-! ## The formats together -/

/-- A word no wider than its format decodes by its format's field table. -/
theorem decode_H_of_lt {W : Widths} {w : Nat} (hw : w < 2 ^ (2 + W.repW + W.idW)) : decode W .H w = .ok (decodeH W w) :=
  if_neg (Nat.not_le.mpr hw)

theorem decode_S_of_lt {W : Widths} {w : Nat} (hw : w < 2 ^ W.symW) : decode W .S w = .ok (decodeS W w) :=
  if_neg (Nat.not_le.mpr hw)

/-- A word that decodes is no wider than its format (30_encoding.md R70). -/
theorem lt_of_decode_ok {W : Widths} {f : Format} {w : Nat} {i : Instr} (h : decode W f w = .ok i) :
    w < 2 ^ f.width W := by
  by_contra hw
  have hwide : decode W f w = .error .tooWide := if_pos (Nat.not_lt.mp hw)
  cases hwide.symm.trans h

/-- A host operation with operands of their widths decodes back from its own word. -/
theorem decode_encode_hostInstr {W : Widths} (start repValid : Bool) {rep cmd : Nat}
    (h : rep < 2 ^ W.repW ∧ cmd < 2 ^ W.idW) :
    decode W .H (encodeH W start repValid rep cmd) = .ok (hostInstr start repValid rep cmd) := by
  rw [decode_H_of_lt (Laws.EncodeFits.encodeH_lt W start repValid h), decodeH_encodeH start repValid h.1 h.2]

/-- Settles O1: operation by operation; format H by its slices, format S by the sign bit, formats P and T by their codes. -/
theorem decodeOfEncodeIsIdentity : Obligations.DecodeOfEncodeIsIdentity := by
  intro W i hW hi
  cases i with
  | hold rv rep cmd => exact decode_encode_hostInstr false rv (by simpa [Instr.wellFormed] using hi)
  | transmit rep cmd => exact decode_encode_hostInstr true true (by simpa [Instr.wellFormed] using hi)
  | transmitDflt rep cmd => exact decode_encode_hostInstr true false (by simpa [Instr.wellFormed] using hi)
  | sym n =>
    have hn : n < 2 ^ (W.symW - 1) := of_decide_eq_true hi
    exact (decode_S_of_lt (Laws.EncodeFits.sym n W hW hi)).trans (congrArg _ (decodeS_of_lt hW hn))
  | symNeg n =>
    have hn : -(2 ^ (W.symW - 1)) ≤ n ∧ n < 0 := by simpa [Instr.wellFormed] using hi
    exact (decode_S_of_lt (Laws.EncodeFits.symNeg n W hW hi)).trans
      (congrArg _ (decodeS_twosComplement hW hn.1 hn.2))
  | configure => exact Machine.decode_drvCode W .configure
  | setHigh => exact Machine.decode_drvCode W .setHigh
  | setLow => exact Machine.decode_drvCode W .setLow
  | release => exact Machine.decode_drvCode W .release
  | waitSon => exact Machine.decode_dselCode W .son
  | waitLon => exact Machine.decode_dselCode W .lon
  | waitSoff => exact Machine.decode_dselCode W .soff
  | waitLoff => exact Machine.decode_dselCode W .loff
  | waitHres => exact Machine.decode_dselCode W .hres
  | waitRres => exact Machine.decode_dselCode W .rres

/-- Settles O2: format by format; a word of format D selects nothing, and each other format's decoder is undone by `encode`. -/
theorem encodeOfDecodeIsIdentity : Obligations.EncodeOfDecodeIsIdentity := by
  intro W f w i hW h
  have hw := lt_of_decode_ok h
  cases f with
  | H =>
    cases (decode_H_of_lt hw).symm.trans h
    exact ⟨Machine.decodeH_wellFormed W w, encode_decodeH hw⟩
  | D =>
    have hdata : decode W .D w = .error .dataFormat := if_neg (Nat.not_le.mpr hw)
    cases hdata.symm.trans h
  | S =>
    cases (decode_S_of_lt hw).symm.trans h
    exact encode_decodeS hW hw
  | P =>
    obtain ⟨op, rfl⟩ := exists_drvCode hw
    cases (Machine.decode_drvCode W op).symm.trans h
    exact ⟨drvInstr_wellFormed W op, encode_drvInstr W op⟩
  | T =>
    have hT : decode W .T w = decodeT (BitVec.ofNat 3 w) := if_neg (Nat.not_le.mpr hw)
    obtain ⟨d, rfl⟩ := exists_dselCode hw (hT.symm.trans h)
    cases (Machine.decode_dselCode W d).symm.trans h
    exact ⟨dselInstr_wellFormed W d, encode_dselInstr W d⟩

/-- Settles O4: the slices of `base` beside `len` are the two fields, and a word is its two slices side by side. -/
theorem directoryWordFields : Obligations.DirectoryWordFields := by
  refine ⟨fun W e hb hl => ⟨?_, Laws.EncodeFits.append_lt hb hl, decodeDir_encodeDir hb hl⟩,
    fun W w hw => ⟨encodeDir_decodeDir hw, decodeDir_lt W w⟩, fun e => ?_⟩
  · rw [encodeDir, Nat.mul_comm]
  · rw [encodeDir, Nat.mul_comm]
    rfl

end Sys2Proof
end

section
/-! SUPPORT. The two levels against each other (00_scope.md R13; 42_transmitter.md R121): a tick-level step is a whole operation-level step, or it
stays within one, and then the same step is still to be answered and fewer ticks of it are left. -/
namespace Sys2Proof.Machine

/-! ## A tick within a step -/

/-- The state one tick of the running timer later, no reset at its edge (10_state.md R25). -/
def State.timerDown (s : State) : State := { s.clockEdge with tmr := s.tmr - 1 }

/-- The state one tick of the set-up time later, no reset at its edge (42_transmitter.md R121b). -/
def State.setupDown (s : State) : State := { s.clockEdge with setup_left := s.setup_left - 1 }

theorem State.timerTick_elapsed {s : State} (hr : s.nextIn.rst = false) : s.timerTick = .elapsed s.timerDown := by
  simp [State.timerTick, hr, State.timerDown]

theorem State.timerTick_reset {s : State} (hr : s.nextIn.rst = true) : s.timerTick = .reset s.clockEdge.toReset := by
  simp [State.timerTick, hr]

theorem State.setupTick_elapsed {s : State} (hr : s.nextIn.rst = false) : s.setupTick = .elapsed s.setupDown := by
  simp [State.setupTick, hr, State.setupDown]

theorem State.setupTick_reset {s : State} (hr : s.nextIn.rst = true) : s.setupTick = .reset s.clockEdge.toReset := by
  simp [State.setupTick, hr]

/-- The tick-level steps that do not complete an operation-level step: a wait that takes time is entered, one tick of it passes and is not the
last, or one tick of the set-up time passes. -/
inductive TickWithin (s : State) : State → Prop where
  | enter (d : Dsel) (h : s.waitSel = some d) (ht : s.tmr = 0) (hd : s.mem.duration d ≠ 0) :
      TickWithin s (s.enterWait d)
  | count (d : Dsel) (h : s.waitSel = some d) (ht : 1 < s.tmr) (hr : s.nextIn.rst = false) :
      TickWithin s s.timerDown
  | setup (h : s.phase = .validate) (ht : s.setup_left ≠ 0) (hr : s.nextIn.rst = false) :
      TickWithin s s.setupDown

/-- A tick within a step writes neither the stores nor the parameters. -/
theorem TickWithin.mem_params {s t : State} (h : TickWithin s t) : t.mem = s.mem ∧ t.params = s.params := by
  cases h <;> exact ⟨rfl, rfl⟩

theorem TickWithin.paramsOk {s t : State} (h : TickWithin s t) : t.paramsOk = s.paramsOk :=
  State.paramsOk_congr h.mem_params.1 h.mem_params.2

/-! ## One tick of a stretch of ticks -/

theorem passTicks_elapsed {tick : State → Passed} {n : Nat} {s t : State} (hn : n ≠ 0) (e : tick s = .elapsed t) :
    passTicks tick n s = passTicks tick (n - 1) t := by
  obtain ⟨k, rfl⟩ := Nat.exists_eq_succ_of_ne_zero hn
  simp [passTicks, e]

theorem passTicks_reset {tick : State → Passed} {n : Nat} {s t : State} (hn : n ≠ 0) (e : tick s = .reset t) :
    passTicks tick n s = .reset t := by
  obtain ⟨k, rfl⟩ := Nat.exists_eq_succ_of_ne_zero hn
  simp [passTicks, e]

/-- The timer run out from now is the timer run out after its next tick. -/
theorem State.runTimer_timerDown {s : State} (d : Dsel) (ht : s.tmr ≠ 0) (hr : s.nextIn.rst = false) :
    s.runTimer d = s.timerDown.runTimer d := by
  rw [State.runTimer, passTicks_elapsed ht (State.timerTick_elapsed hr)]
  rfl

/-- A reset at the next edge ends the wait in progress there. -/
theorem State.runTimer_reset {s : State} (d : Dsel) (ht : s.tmr ≠ 0) (hr : s.nextIn.rst = true) :
    s.runTimer d = .reset s.clockEdge.toReset := by
  rw [State.runTimer, passTicks_reset ht (State.timerTick_reset hr)]

/-- A timer at 0 completes its wait in no time. -/
theorem State.runTimer_zero {s : State} (d : Dsel) (ht : s.tmr = 0) : s.runTimer d = .elapsed (s.waitDone d) := by
  simp [State.runTimer, ht, passTicks]

/-- The validation step from now is the one after the next tick of the set-up time. -/
theorem State.validateStep_setupDown {s : State} (ht : s.setup_left ≠ 0) (hr : s.nextIn.rst = false) :
    s.validateStep = s.setupDown.validateStep := by
  rw [State.validateStep, passTicks_elapsed ht (State.setupTick_elapsed hr)]
  rfl

theorem State.validateStep_reset {s : State} (ht : s.setup_left ≠ 0) (hr : s.nextIn.rst = true) :
    s.validateStep = .next s.clockEdge.toReset := by
  rw [State.validateStep, passTicks_reset ht (State.setupTick_reset hr)]

theorem State.validateStep_zero {s : State} (ht : s.setup_left = 0) : s.validateStep = s.validate := by
  simp [State.validateStep, ht, passTicks]

/-- A whole wait with the position update after it is its entry and then the rest of it. -/
theorem afterOp_waitFor {s : State} {d : Dsel} (hp : s.paramsOk = true) (h : s.waitSel = some d) :
    afterOp s.phase (waitFor d s) = (s.enterWait d).resumeWait d := by
  have hi : s.phase ≠ .idle := (State.waitSel_some h).2.1
  rw [waitFor, gated_ok _ hp, State.resumeWait]
  rcases (s.enterWait d).runTimer_cases d with ⟨-, e⟩ | ⟨k, w, -, -, -, e⟩
  · simp [e, Passed.state, afterOp]
  · simp [e, Passed.state, afterOp, State.resetAfter, hi.symm]

/-- After a tick within a step the same step is still to be answered. -/
theorem TickWithin.step_eq {s t : State} (h : TickWithin s t) : step t = step s := by
  cases hp : s.paramsOk
  · rw [step_bad hp, step_bad (h.paramsOk.trans hp)]
  have hp' := h.paramsOk.trans hp
  cases h with
  | enter d h ht hd => rw [step_resume hp' h hd, step_wait hp h ht, afterOp_waitFor hp h]
  | count d h ht hr =>
    have ht' : s.tmr - 1 ≠ 0 := by omega
    rw [step_resume hp' h ht', step_resume hp h (by omega), State.resumeWait, State.resumeWait,
      s.runTimer_timerDown d (by omega) hr]
  | setup h ht hr => rw [step_validate hp' h, step_validate hp h, State.validateStep_setupDown ht hr]

/-! ## A tick-level step is a whole step or within one -/

theorem tickStep_validate_cases {s : State} (hp : s.paramsOk = true) (h : s.phase = .validate) :
    tickStep s = step s ∨ ∃ t, TickWithin s t ∧ tickStep s = .next t := by
  rw [tickStep_validate hp h, step_validate hp h]
  by_cases ht : s.setup_left = 0
  · exact .inl ((if_pos ht).trans (State.validateStep_zero ht).symm)
  · rw [if_neg ht]
    cases hr : s.nextIn.rst
    · rw [State.setupTick_elapsed hr]
      exact .inr ⟨_, .setup h ht hr, rfl⟩
    · rw [State.setupTick_reset hr]
      exact .inl (State.validateStep_reset ht hr).symm

theorem tickStep_wait_cases {s : State} {d : Dsel} (hp : s.paramsOk = true) (h : s.waitSel = some d) :
    tickStep s = step s ∨ ∃ t, TickWithin s t ∧ tickStep s = .next t := by
  rw [tickStep_wait hp h, State.waitTick]
  by_cases ht : s.tmr = 0
  · rw [if_pos ht, step_wait hp h ht, afterOp_waitFor hp h, State.waitCheck, State.resumeWait]
    by_cases hd : s.mem.duration d = 0
    · rw [State.runTimer_zero d hd]
      exact .inl (if_pos hd)
    · exact .inr ⟨_, .enter d h ht hd, if_neg hd⟩
  · rw [if_neg ht, step_resume hp h ht, State.resumeWait]
    cases hr : s.nextIn.rst
    · rw [State.timerTick_elapsed hr, State.runTimer_timerDown d ht hr]
      by_cases h0 : s.timerDown.tmr = 0
      · rw [State.runTimer_zero d h0]
        exact .inl (if_pos h0)
      · exact .inr ⟨_, .count d h (Nat.lt_of_sub_ne_zero h0) hr, if_neg h0⟩
    · rw [State.timerTick_reset hr, State.runTimer_reset d ht hr]
      exact .inl rfl

/-- A tick-level step is a whole operation-level step or stays within one. -/
theorem tickStep_cases (s : State) : tickStep s = step s ∨ ∃ t, TickWithin s t ∧ tickStep s = .next t := by
  cases hp : s.paramsOk
  · exact .inl ((tickStep_bad hp).trans (step_bad hp).symm)
  rcases s.phase_kinds with h | h | ⟨op, h⟩ | ⟨d, h⟩ | h
  · exact .inl (tickStep_idle hp h)
  · exact tickStep_validate_cases hp h
  · exact .inl (tickStep_driver hp h)
  · exact tickStep_wait_cases hp h
  · exact .inl (tickStep_reserved hp h)

/-! ## The refinement -/

/-- The tick-level steps that may still stay within the step in progress: the set-up ticks left, or the ticks left of the wait, with its entry. -/
def State.ticksLeft (s : State) : Nat :=
  match s.waitSel with
  | none => s.setup_left
  | some d => if s.tmr = 0 then s.mem.duration d + 1 else s.tmr

theorem State.ticksLeft_validate {s : State} (h : s.phase = .validate) : s.ticksLeft = s.setup_left := by
  simp [State.ticksLeft, State.waitSel, h]

theorem State.ticksLeft_entering {s : State} {d : Dsel} (h : s.waitSel = some d) (ht : s.tmr = 0) :
    s.ticksLeft = s.mem.duration d + 1 := by
  simp [State.ticksLeft, h, ht]

theorem State.ticksLeft_waiting {s : State} {d : Dsel} (h : s.waitSel = some d) (ht : s.tmr ≠ 0) :
    s.ticksLeft = s.tmr := by
  simp [State.ticksLeft, h, ht]

/-- A tick within a step leaves fewer of its ticks. -/
theorem TickWithin.ticksLeft_lt {s t : State} (h : TickWithin s t) : t.ticksLeft < s.ticksLeft := by
  cases h with
  | enter d h ht hd =>
    have hleft : (s.enterWait d).ticksLeft = s.mem.duration d := State.ticksLeft_waiting h hd
    rw [hleft, State.ticksLeft_entering h ht]
    exact Nat.lt_succ_self _
  | count d h ht hr =>
    have hleft : s.timerDown.ticksLeft = s.tmr - 1 := State.ticksLeft_waiting h (Nat.sub_ne_zero_of_lt ht)
    rw [hleft, State.ticksLeft_waiting h (by omega)]
    omega
  | setup h ht hr =>
    have hleft : s.setupDown.ticksLeft = s.setup_left - 1 := State.ticksLeft_validate h
    rw [hleft, State.ticksLeft_validate h]
    omega

/-- Settles O35, by induction on the ticks left of the step: a tick within it leaves the same step to be answered. -/
theorem tickLevelRefinesOperationLevel : Obligations.TickLevelRefinesOperationLevel := by
  intro s
  induction hk : s.ticksLeft using Nat.strong_induction_on generalizing s with
  | _ k ih =>
    subst hk
    rcases tickStep_cases s with e | ⟨t, ht, e⟩
    · exact ⟨0, (tickRun_one s).trans e⟩
    · obtain ⟨n, hn⟩ := ih _ ht.ticksLeft_lt t rfl
      refine ⟨n + 1, ?_⟩
      calc tickRun (n + 1 + 1) s = tickRun (n + 1) t := by rw [tickRun, e, andThen_next]
        _ = step t := hn
        _ = step s := ht.step_eq

/-! ## The fetched operation -/

theorem State.fetch_validate {s : State} (h : s.phase = .validate) : s.fetch = none := by
  simp [State.fetch, State.waitSel, Phase.drvOp, h]

theorem State.fetch_reserved {s : State} (h : s.phase = .reserved) : s.fetch = none := by
  simp [State.fetch, State.waitSel, Phase.drvOp, h]

/-- While idle, with no reset at the next edge, the step runs the operation of the host word one edge later. -/
theorem step_idle_runs {s : State} {i : Instr} (hp : s.paramsOk = true) (h : s.phase = .idle)
    (hr : s.nextIn.rst = false) (hi : decode s.params.widths .H s.hostWord = .ok i) :
    step s = afterOp .idle (exec i s.clockEdge) := by
  cases (decode_hostWord s).symm.trans hi
  rcases step_idle_cases hp h with ⟨hr', -⟩ | ⟨-, e⟩
  · cases hr.symm.trans hr'
  · exact e

/-- In every other phase that fetches, with no wait in progress, the step runs the fetched operation. -/
theorem step_fetched_runs {s : State} {f : Format} {w : Nat} {i : Instr} (hp : s.paramsOk = true)
    (hn : s.phase ≠ .idle) (ht : s.tmr = 0) (hf : s.fetch = some (f, w))
    (hi : decode s.params.widths f w = .ok i) : step s = afterOp s.phase (exec i s) := by
  rcases s.phase_kinds with h | h | ⟨op, h⟩ | ⟨d, h⟩ | h
  · exact absurd h hn
  · cases (State.fetch_validate h).symm.trans hf
  · obtain ⟨-, -, -, -, hop⟩ := State.drvOp_some h
    cases hop.symm.trans hf
    cases (decode_drvCode _ op).symm.trans hi
    exact step_driver hp h
  · obtain ⟨-, -, -, -, hd⟩ := State.waitSel_some h
    cases hd.symm.trans hf
    cases (decode_dselCode _ d).symm.trans hi
    rw [exec_dselInstr]
    exact step_wait hp h ht
  · cases (State.fetch_reserved h).symm.trans hf

theorem afterOp_next_of_ne {p : Phase} {t : State} (h : t.phase ≠ p) : afterOp p (.next t) = .next t := if_neg h

theorem afterOp_next_of_eq {p : Phase} {t : State} (h : t.phase = p) : afterOp p (.next t) = t.advance := if_pos h

/-- Settles O21, from the step of each kind of phase. -/
theorem stepRunsTheFetchedOperation : Obligations.StepRunsTheFetchedOperation :=
  ⟨fun _ _ hp h hr hi => step_idle_runs hp h hr hi, fun _ _ _ _ hp hn ht hf hi => step_fetched_runs hp hn ht hf hi,
    fun _ _ => ⟨afterOp_next_of_ne, afterOp_next_of_eq⟩⟩

end Sys2Proof.Machine
end

section
/-! SUPPORT. The ranges of the registers (00_scope.md R10; 10_state.md R21, R22, R25): every step, at either level, keeps them, so they hold in every
state reached from reset. -/
namespace Sys2Proof.Machine

/-! ## Runs -/

/-- A run at the operation level is its first step and the rest. -/
theorem core_run_succ (n : Nat) (s : State) :
    Sys2Proof.core.run (n + 1) s = andThen (step s) (Sys2Proof.core.run n) := by
  have hstep : Sys2Proof.core.step s = step s := rfl
  cases e : step s <;> simp only [Host.Core.run, hstep, e] <;> rfl

/-- What every step keeps holds in every state a run answers. -/
theorem core_run_keeps {P : State → Prop} (hP : ∀ s t, P s → step s = .next t → P t) {n : Nat} {s t : State}
    (hs : P s) (h : Sys2Proof.core.run n s = .next t) : P t := by
  induction n generalizing s with
  | zero => cases h; exact hs
  | succ n ih =>
    rw [core_run_succ] at h
    cases e : step s with
    | next u => exact ih (hP s u hs e) (by rwa [e] at h)
    | fault r => rw [e] at h; cases h
    | refused r => rw [e] at h; cases h

/-- What every tick-level step keeps holds in every state a tick-level run answers. -/
theorem tickRun_keeps {P : State → Prop} (hP : ∀ s t, P s → tickStep s = .next t → P t) {n : Nat} {s t : State}
    (hs : P s) (h : tickRun n s = .next t) : P t := by
  induction n generalizing s with
  | zero => cases h; exact hs
  | succ n ih =>
    rw [tickRun] at h
    cases e : tickStep s with
    | next u => exact ih (hP s u hs e) (by rwa [e] at h)
    | fault r => rw [e] at h; cases h
    | refused r => rw [e] at h; cases h

/-- Everything a tick-level step that answers a next state can have done. -/
theorem tickStep_to {s t : State} (e : tickStep s = .next t) : StepTo s t ∨ TickWithin s t := by
  rcases tickStep_cases s with h | ⟨u, hu, h⟩
  · exact .inl (step_to (h.symm.trans e))
  · cases h.symm.trans e
    exact .inr hu

/-! ## Stores and parameters -/

/-- No row of the step table writes the stores or the parameters (20_memory.md R54). -/
theorem StepTo.mem_params {s t : State} (h : StepTo s t) : t.mem = s.mem ∧ t.params = s.params := by
  cases h <;> exact ⟨rfl, rfl⟩

theorem StepTo.paramsOk {s t : State} (h : StepTo s t) : t.paramsOk = s.paramsOk :=
  State.paramsOk_congr h.mem_params.1 h.mem_params.2

/-! ## Ranges -/

theorem rangeInv_resetWith (m : Memory) (p : Params) : RangeInv (State.resetWith m p) :=
  ⟨Nat.two_pow_pos _, Nat.two_pow_pos _, Nat.two_pow_pos _, Nat.two_pow_pos _, Nat.two_pow_pos _, Nat.two_pow_pos _,
    Nat.two_pow_pos _, Nat.two_pow_pos _⟩

theorem rangeInv_toReset (s : State) : RangeInv s.toReset := rangeInv_resetWith s.mem s.params

theorem RangeInv.waited {s : State} (h : RangeInv s) (d : Dsel) : RangeInv (s.waited d) := by
  obtain ⟨hcmd, hbase, hlen, hrep, hsync, hidx, hlong, -⟩ := h
  exact ⟨hcmd, hbase, hlen, hrep, hsync, hidx, hlong, Nat.two_pow_pos _⟩

/-- The directory fields fit the registers they are read into. -/
theorem RangeInv.lookedUp {s : State} (h : RangeInv s) : RangeInv s.lookedUp := by
  obtain ⟨hcmd, -, -, hrep, hsync, hidx, hlong, htmr⟩ := h
  obtain ⟨hbase, hlen⟩ := decodeDir_lt s.params.widths (Store.read Memory.dirDefault s.mem.dir s.cmd_r)
  exact ⟨hcmd, hbase, hlen, hrep, hsync, hidx, hlong, htmr⟩

theorem RangeInv.acceptStart {s : State} {rep cmd : Nat} (h : RangeInv s) (hrep : rep < 2 ^ s.params.widths.repW)
    (hcmd : cmd < 2 ^ s.params.widths.idW) : RangeInv (s.acceptStart rep cmd) := by
  obtain ⟨-, hbase, hlen, -, -, -, -, htmr⟩ := h
  exact ⟨hcmd, hbase, hlen, hrep, Nat.two_pow_pos _, Nat.two_pow_pos _, Nat.two_pow_pos _, htmr⟩

/-- `SYNC_PULSES` fits `sync_left` (log 11). -/
theorem RangeInv.hdrStart {s : State} (h : RangeInv s) (hp : s.paramsOk = true) : RangeInv s.hdrStart := by
  obtain ⟨hcmd, hbase, hlen, hrep, -, hidx, hlong, htmr⟩ := h
  obtain ⟨-, -, -, -, -, -, -, hsync⟩ := State.paramsOk_iff.mp hp
  exact ⟨hcmd, hbase, hlen, hrep, hsync, hidx, hlong, htmr⟩

/-- The index at which the next symbol is looked for stays within the length of the command. -/
theorem State.dispatchAt.le_len {s : State} {d : Dsel} {idx : Nat} (h : s.dispatchAt d idx) : idx ≤ s.len_r := by
  rcases h with ⟨-, -, rfl⟩ | ⟨-, -, rfl, hlt⟩
  · exact Nat.zero_le _
  · exact hlt

/-- A symbol that is not negative fits `long_left` (30_encoding.md R73). -/
theorem State.readSym_lt_of_nonneg {s : State} (hp : s.paramsOk = true) {a : Nat}
    (hs : ¬ symInt s.params.widths (s.mem.readSym a) < 0) : s.mem.readSym a < 2 ^ (s.params.widths.symW - 1) :=
  (decodeS_nonneg (State.widths_ok hp) (State.readSym_lt hp a) hs).2

/-- Every row of the step table keeps the ranges. -/
theorem StepTo.rangeInv {s t : State} (hp : s.paramsOk = true) (hi : RangeInv s) (h : StepTo s t) : RangeInv t := by
  cases h with
  | resetIdle => exact rangeInv_toReset _
  | reset => exact rangeInv_toReset _
  | start rep cmd hrep hcmd => exact RangeInv.acceptStart (s := s.clockEdge) hi hrep hcmd
  | invalid => exact RangeInv.lookedUp (s := s.settled) hi
  | valid => exact RangeInv.lookedUp (s := s.settled) hi
  | configure => exact hi.hdrStart hp
  | hold | unknown | configureEmpty | configureFails | high | bodyHigh | highFails | low | bodyLow | lowFails
  | release => exact hi
  | highOver | longOver | shortOver | groupLast => exact hi.waited .son
  | repeatGap => exact (hi.waited .rres).hdrStart hp
  | syncMore =>
    obtain ⟨hcmd, hbase, hlen, hrep, hsync, hidx, hlong, htmr⟩ := hi.waited .soff
    exact ⟨hcmd, hbase, hlen, hrep, Nat.sub_lt_of_lt hsync, hidx, hlong, htmr⟩
  | syncLast =>
    obtain ⟨hcmd, hbase, hlen, hrep, -, hidx, hlong, htmr⟩ := hi.waited .soff
    exact ⟨hcmd, hbase, hlen, hrep, Nat.two_pow_pos _, hidx, hlong, htmr⟩
  | groupMore =>
    obtain ⟨hcmd, hbase, hlen, hrep, hsync, hidx, hlong, htmr⟩ := hi.waited .soff
    exact ⟨hcmd, hbase, hlen, hrep, hsync, hidx, Nat.sub_lt_of_lt hlong, htmr⟩
  | symbol d idx h hidx _ hs =>
    obtain ⟨hcmd, hbase, hlen, hrep, hsync, -, -, htmr⟩ := hi.waited d
    exact ⟨hcmd, hbase, hlen, hrep, hsync, Nat.lt_trans hidx hlen, State.readSym_lt_of_nonneg hp hs, htmr⟩
  | lastRepeat d idx h =>
    obtain ⟨hcmd, hbase, hlen, -, hsync, -, hlong, htmr⟩ := hi.waited d
    exact ⟨hcmd, hbase, hlen, Nat.two_pow_pos _, hsync, Nat.lt_of_le_of_lt h.le_len hlen, hlong, htmr⟩
  | nextRepeat d idx h =>
    obtain ⟨hcmd, hbase, hlen, hrep, hsync, -, hlong, htmr⟩ := hi.waited d
    exact ⟨hcmd, hbase, hlen, Nat.sub_lt_of_lt hrep, hsync, Nat.lt_of_le_of_lt h.le_len hlen, hlong, htmr⟩

/-- A tick within a step keeps the ranges: every duration fits the timer. -/
theorem TickWithin.rangeInv {s t : State} (hp : s.paramsOk = true) (hi : RangeInv s) (h : TickWithin s t) :
    RangeInv t := by
  obtain ⟨hcmd, hbase, hlen, hrep, hsync, hidx, hlong, htmr⟩ := hi
  cases h with
  | enter d => exact ⟨hcmd, hbase, hlen, hrep, hsync, hidx, hlong, State.duration_lt hp d⟩
  | count => exact ⟨hcmd, hbase, hlen, hrep, hsync, hidx, hlong, Nat.sub_lt_of_lt htmr⟩
  | setup => exact ⟨hcmd, hbase, hlen, hrep, hsync, hidx, hlong, htmr⟩

/-- The state runs under the given well-formed parameters with every register in its range. -/
def InRange (p : Params) (s : State) : Prop := s.params = p ∧ s.paramsOk = true ∧ RangeInv s

theorem InRange.step {p : Params} {s t : State} (h : InRange p s) (e : step s = .next t) : InRange p t := by
  obtain ⟨hparams, hp, hi⟩ := h
  have ht := step_to e
  exact ⟨ht.mem_params.2.trans hparams, ht.paramsOk.trans hp, ht.rangeInv hp hi⟩

theorem InRange.tickStep {p : Params} {s t : State} (h : InRange p s) (e : tickStep s = .next t) : InRange p t := by
  obtain ⟨hparams, hp, hi⟩ := h
  rcases tickStep_to e with ht | ht
  · exact ⟨ht.mem_params.2.trans hparams, ht.paramsOk.trans hp, ht.rangeInv hp hi⟩
  · exact ⟨ht.mem_params.2.trans hparams, ht.paramsOk.trans hp, ht.rangeInv hp hi⟩

/-- Settles O57: the ranges hold at reset and every step of either level keeps them. -/
theorem registersFitTheirWidths : Obligations.RegistersFitTheirWidths := by
  intro m p h a n s hp _ hrun
  have hreset : InRange p { State.resetWith m p with hostIn := h, answers := a } :=
    ⟨rfl, (State.paramsOk_congr rfl rfl).trans hp, rangeInv_resetWith m p⟩
  have hs : InRange p s := by
    rcases hrun with e | e
    · exact core_run_keeps (fun _ _ => InRange.step) hreset e
    · exact tickRun_keeps (fun _ _ => InRange.tickStep) hreset e
  obtain ⟨rfl, -, hi⟩ := hs
  exact hi

end Sys2Proof.Machine
end

section
/-! SUPPORT. The invariant (10_state.md R34 with R22): it holds at reset, and every step, at either level, keeps it, part by part: the flags and pin
outputs, the position, the timer, the ranges, the selected command. -/
namespace Sys2Proof.Machine

/-- The next symbol is looked for at the end of the header or of a group. -/
theorem State.dispatchAt.phase {s : State} {d : Dsel} {idx : Nat} (h : s.dispatchAt d idx) :
    s.phase = .hdrRes ∨ s.phase = .grpGap :=
  h.imp And.left And.left

/-! ## Flags and pin outputs -/

/-- What the flags say in an idle block. -/
theorem flagsInv_idle {s : State} (h : s.phase = .idle) :
    FlagsInv s ↔ s.busy = false ∧ s.tx_oe = false ∧ s.tx = false ∧ (s.err ≠ 0 → s.done = true) := by
  simp [FlagsInv, h, Phase.acquired, Phase.high]

/-- What the flags say in a phase `p` of a transmission. -/
theorem flagsInv_busy {s : State} {p : Phase} (h : s.phase = p) (hp : p ≠ .idle) :
    FlagsInv s ↔ s.busy = true ∧ s.tx_oe = p.acquired ∧ s.tx = p.high ∧ s.done = false ∧
      (p ≠ .release → s.err = 0) := by
  subst h
  constructor
  · rintro ⟨hb, hoe, htx, hd, he⟩
    have hd : s.done = false := by simpa using mt hd hp
    refine ⟨hb.mpr hp, Bool.eq_iff_iff.mpr hoe, Bool.eq_iff_iff.mpr htx, hd, fun hr => by_contra fun e => ?_⟩
    simpa [hd, hr] using he e
  · rintro ⟨hb, hoe, htx, hd, he⟩
    exact ⟨iff_of_true hb hp, Bool.eq_iff_iff.mp hoe, Bool.eq_iff_iff.mp htx, fun e => by simp [hd] at e,
      fun e => .inr (by_contra fun hr => e (he hr))⟩

theorem flagsInv_toReset (s : State) : FlagsInv s.toReset :=
  (flagsInv_idle rfl).mpr ⟨rfl, rfl, rfl, fun h => absurd rfl h⟩

/-- Two phases of a transmission, the first before its release, with the pin acquired in both or in neither. -/
def Phase.keepsPin (p q : Phase) : Bool :=
  decide (p ≠ .idle ∧ p ≠ .release ∧ q ≠ .idle ∧ p.acquired = q.acquired)

/-- The phase moves and the pin is driven to the level the new phase asks for. -/
theorem FlagsInv.driven {s : State} {q : Phase} (hi : FlagsInv s) (h : s.phase.keepsPin q = true) :
    FlagsInv { s with tx := q.high, phase := q } := by
  obtain ⟨hp, hr, hq, hacq⟩ := decide_eq_true_iff.mp h
  obtain ⟨hb, hoe, -, hd, he⟩ := (flagsInv_busy rfl hp).mp hi
  exact (flagsInv_busy rfl hq).mpr ⟨hb, hoe.trans hacq, rfl, hd, fun _ => he hr⟩

/-- The phase moves and the level stays. -/
theorem FlagsInv.moved {s : State} {q : Phase} (hi : FlagsInv s) (h : s.phase.keepsPin q = true)
    (hlevel : s.phase.high = q.high) : FlagsInv { s with phase := q } := by
  have htx : s.tx = q.high := by
    obtain ⟨-, -, htx, -⟩ := hi
    exact (Bool.eq_iff_iff.mpr htx).trans hlevel
  simpa only [← htx] using hi.driven h

/-- Every row of the step table keeps the flags and pin outputs in agreement with the phase (10_state.md R34 a to e). -/
theorem StepTo.flagsInv {s t : State} (hi : FlagsInv s) (h : StepTo s t) : FlagsInv t := by
  cases h with
  | hold => exact hi
  | resetIdle => exact flagsInv_toReset _
  | reset => exact flagsInv_toReset _
  | start _ _ _ _ h =>
    obtain ⟨-, hoe, htx, -⟩ := (flagsInv_idle h).mp hi
    exact (flagsInv_busy (p := .validate) rfl nofun).mpr ⟨rfl, hoe, htx, rfl, fun _ => rfl⟩
  | unknown h | invalid h | configureFails h =>
    obtain ⟨-, hoe, htx, -⟩ := (flagsInv_busy h nofun).mp hi
    exact (flagsInv_idle rfl).mpr ⟨rfl, hoe, htx, fun _ => rfl⟩
  | release => exact (flagsInv_idle rfl).mpr ⟨rfl, rfl, rfl, fun _ => rfl⟩
  | configureEmpty h =>
    obtain ⟨hb, -, htx, hd, -⟩ := (flagsInv_busy h nofun).mp hi
    exact (flagsInv_busy (p := .release) rfl nofun).mpr ⟨hb, rfl, htx, hd, nofun⟩
  | configure h =>
    obtain ⟨hb, -, htx, hd, he⟩ := (flagsInv_busy h nofun).mp hi
    exact (flagsInv_busy (p := .hdrHi) rfl nofun).mpr ⟨hb, rfl, htx, hd, fun _ => he nofun⟩
  | high h | bodyHigh h | low h | bodyLow h => exact hi.driven (by rw [h]; rfl)
  | highFails h | lowFails h =>
    rcases h with h | h <;>
    · obtain ⟨hb, hoe, -, hd, -⟩ := (flagsInv_busy h nofun).mp hi
      exact (flagsInv_busy (p := .release) rfl nofun).mpr ⟨hb, hoe, rfl, hd, nofun⟩
  | valid h | highOver h | syncMore h | syncLast h | longOver h | shortOver h | groupMore h | groupLast h | repeatGap h =>
    exact hi.moved (by rw [h]; rfl) (by rw [h]; rfl)
  | symbol _ _ h | lastRepeat _ _ h | nextRepeat _ _ h =>
    rcases h.phase with h | h <;> exact hi.moved (by rw [h]; rfl) (by rw [h]; rfl)

/-! ## The position -/

/-- What the position asks of the counters in `q` it asks in `p` too. -/
def Phase.asksNoLess (p q : Phase) : Bool :=
  decide (q ≠ .reserved ∧ q ≠ .validate ∧ (q.syncing = true → p.syncing = true) ∧ (q.inBody = true → p.inBody = true) ∧
    (q.acquired = true → q ≠ .release → p.acquired = true ∧ p ≠ .release))

theorem PositionInv.moved {s : State} {q : Phase} (hi : PositionInv s) (h : s.phase.asksNoLess q = true) :
    PositionInv { s with phase := q } := by
  obtain ⟨hres, hval, hs, hb, ha⟩ := decide_eq_true_iff.mp h
  obtain ⟨-, hidx, hsync, -, hsync0, hbody, hrep0⟩ := hi
  exact ⟨hres, hidx, hsync, fun e => absurd e hval, hsync0 ∘ hs, hbody ∘ hb,
    fun h1 h2 => hrep0 (ha h1 h2).1 (ha h1 h2).2⟩

/-- In a phase before the release a repeat is in progress. -/
theorem PositionInv.rep_left_ne_zero {s : State} {p : Phase} (hi : PositionInv s) (h : s.phase = p)
    (hp : p.acquired = true) (hr : p ≠ .release) : s.rep_left ≠ 0 := by
  subst h
  obtain ⟨-, -, -, -, -, -, hrep⟩ := hi
  exact hrep hp hr

theorem positionInv_toReset (s : State) : PositionInv s.toReset :=
  ⟨nofun, Nat.zero_le _, Nat.zero_le _, nofun, nofun, nofun, nofun⟩

/-- The header starts with `SYNC_PULSES`, at least 1, to be completed (00_scope.md R11c). -/
theorem PositionInv.hdrStart {s : State} (hi : PositionInv s) (hp : s.paramsOk = true) (hr : s.rep_left ≠ 0) :
    PositionInv s.hdrStart := by
  obtain ⟨-, -, hpulses, -⟩ := State.paramsOk_iff.mp hp
  obtain ⟨-, hidx, -⟩ := hi
  exact ⟨nofun, hidx, Nat.le_refl _, nofun, fun _ => Nat.ne_of_gt hpulses, nofun, fun _ _ => hr⟩

/-- Every row of the step table keeps the position within its ranges (10_state.md R22, R34 f). -/
theorem StepTo.positionInv {s t : State} (hp : s.paramsOk = true) (hi : PositionInv s) (h : StepTo s t) :
    PositionInv t := by
  cases h with
  | hold => exact hi
  | resetIdle => exact positionInv_toReset _
  | reset => exact positionInv_toReset _
  | start => exact ⟨nofun, Nat.zero_le _, Nat.zero_le _, fun _ => rfl, nofun, nofun, nofun⟩
  | unknown h | configureEmpty h | configureFails h | high h | bodyHigh h | low h | bodyLow h | release h | highOver h
  | longOver h | shortOver h | groupMore h | groupLast h => exact hi.moved (by rw [h]; rfl)
  | highFails h | lowFails h => exact hi.moved (by rcases h with h | h <;> rw [h] <;> rfl)
  | invalid h | valid h =>
    obtain ⟨-, -, hsync, hidx, -⟩ := hi
    refine ⟨nofun, ?_, hsync, nofun, nofun, nofun, nofun⟩
    exact (hidx h).trans_le (Nat.zero_le _)
  | configure _ _ hl => exact hi.hdrStart hp hl
  | repeatGap h => exact hi.hdrStart hp (hi.rep_left_ne_zero h rfl nofun)
  | syncMore h h1 =>
    have hrep := hi.rep_left_ne_zero h rfl nofun
    obtain ⟨-, hidx, hsync, -⟩ := hi
    exact ⟨nofun, hidx, (Nat.sub_le _ _).trans hsync, nofun, fun _ => Nat.sub_ne_zero_of_lt h1, nofun, fun _ _ => hrep⟩
  | syncLast h =>
    have hrep := hi.rep_left_ne_zero h rfl nofun
    obtain ⟨-, hidx, -⟩ := hi
    exact ⟨nofun, hidx, Nat.zero_le _, nofun, nofun, nofun, fun _ _ => hrep⟩
  | symbol d idx h hidx =>
    have hrep : s.rep_left ≠ 0 := h.phase.elim (hi.rep_left_ne_zero · rfl nofun) (hi.rep_left_ne_zero · rfl nofun)
    obtain ⟨-, -, hsync, -⟩ := hi
    exact ⟨nofun, hidx.le, hsync, nofun, nofun, fun _ => hidx, fun _ _ => hrep⟩
  | lastRepeat d idx h =>
    obtain ⟨-, -, hsync, -⟩ := hi
    exact ⟨nofun, h.le_len, hsync, nofun, nofun, nofun, nofun⟩
  | nextRepeat d idx h _ hr =>
    obtain ⟨-, -, hsync, -⟩ := hi
    exact ⟨nofun, h.le_len, hsync, nofun, nofun, nofun, fun _ _ => Nat.sub_ne_zero_of_lt hr⟩

/-! ## The timer -/

/-- A step of the operation level leaves no wait in progress: it runs the timer out, resets it, or does not wait. -/
theorem StepTo.tmr_eq_zero {s t : State} (hi : TimerInv s) (h : StepTo s t) : t.tmr = 0 := by
  have hidle {p : Phase} (h : s.phase = p) (hw : s.waitSel = none) : s.tmr = 0 := by_contra fun h0 => hi h0 hw
  cases h with
  | hold h | start _ _ _ _ h | unknown h | invalid h | valid h | configureEmpty h | configure h | configureFails h | high h
  | bodyHigh h | low h | bodyLow h | release h => exact hidle h (by simp [State.waitSel, h])
  | highFails h | lowFails h => rcases h with h | h <;> exact hidle h (by simp [State.waitSel, h])
  | _ => rfl

/-! ## The selected command -/

/-- Every row of the step table leaves the selected command valid: validation accepts no other, and no later row selects one (41_encoder.md R109). -/
theorem StepTo.commandValid {s t : State} (hi : s.phase = .config ∨ s.phase.acquired = true → CommandValid s)
    (h : StepTo s t) : t.phase = .config ∨ t.phase.acquired = true → CommandValid t := by
  cases h with
  | hold => exact hi
  | valid _ _ hv => exact fun _ => hv
  | start | resetIdle | reset | unknown | invalid | configureFails | release => nofun
  | configureEmpty h | configure h => exact fun _ => hi (.inl h)
  | highFails h | lowFails h => exact fun _ => hi (.inr (by rcases h with h | h <;> rw [h] <;> rfl))
  | symbol _ _ h | lastRepeat _ _ h | nextRepeat _ _ h =>
    exact fun _ => hi (.inr (by rcases h.phase with h | h <;> rw [h] <;> rfl))
  | high h | bodyHigh h | low h | bodyLow h | highOver h | syncMore h | syncLast h | longOver h | shortOver h | groupMore h
  | groupLast h | repeatGap h => exact fun _ => hi (.inr (by rw [h]; rfl))

/-! ## The invariant -/

theorem StepTo.invariant {s t : State} (hi : Invariant s) (h : StepTo s t) : Invariant t := by
  obtain ⟨hp, hm, hflags, hpos, htimer, hrange, hcmd⟩ := hi
  exact ⟨h.paramsOk.trans hp, h.mem_params.1 ▸ hm, h.flagsInv hflags, h.positionInv hp hpos,
    fun h0 => absurd (h.tmr_eq_zero htimer) h0, h.rangeInv hp hrange, h.commandValid hcmd⟩

/-- A tick within a step moves the timer, in a phase that waits, or the set-up time. -/
theorem TickWithin.invariant {s t : State} (hi : Invariant s) (h : TickWithin s t) : Invariant t := by
  obtain ⟨hp, hm, hflags, hpos, htimer, hrange, hcmd⟩ := hi
  have hp' := h.paramsOk.trans hp
  have hrange' := h.rangeInv hp hrange
  cases h with
  | enter d hw | count d hw =>
    have htimer' : s.waitSel ≠ none := by simp [hw]
    exact ⟨hp', hm, hflags, hpos, fun _ => htimer', hrange', hcmd⟩
  | setup => exact ⟨hp', hm, hflags, hpos, htimer, hrange', hcmd⟩

/-- Settles O30: every row of the step table keeps each part of the invariant. -/
theorem stepKeepsTheInvariant : Obligations.StepKeepsTheInvariant :=
  fun _ _ hi e => (step_to e).invariant hi

/-- Settles O31: a tick-level step is a row of the step table or a tick within one. -/
theorem tickStepKeepsTheInvariant : Obligations.TickStepKeepsTheInvariant :=
  fun _ _ hi e => (tickStep_to e).elim (StepTo.invariant hi) (TickWithin.invariant hi)

theorem invariant_resetWith {m : Memory} {p : Params} (hp : (State.resetWith m p).paramsOk = true) (hm : m.wf) :
    Invariant (State.resetWith m p) :=
  ⟨hp, hm, flagsInv_toReset (State.resetWith m p), positionInv_toReset (State.resetWith m p), fun h => absurd rfl h,
    rangeInv_resetWith m p, nofun⟩

/-- Settles O32. -/
theorem invariantHoldsAtReset : Obligations.InvariantHoldsAtReset :=
  ⟨fun _ _ hp hm => invariant_resetWith hp hm, invariant_resetWith (by decide) Memory.empty_wf⟩

/-- The phases in which the pin is acquired, listed (10_state.md R34 b). -/
theorem Phase.acquired_iff_mem {p : Phase} : p.acquired = true ↔ p ∈ [Phase.hdrHi, .hdrHiW, .hdrLo, .hdrLoW, .hdrRes,
    .bodyHi, .bodyHiW, .bodyLo, .bodyLoW, .grpGap, .repGap, .release] := by
  cases p <;> decide

/-- The phases in which the pin is high, listed (10_state.md R34 c). -/
theorem Phase.high_iff_mem {p : Phase} : p.high = true ↔ p ∈ [Phase.hdrHiW, .hdrLo, .bodyHiW, .bodyLo] := by
  cases p <;> decide

/-- Settles O33: the invariant holds at reset and every step of either level keeps it. -/
theorem reachableStatesSatisfyTheStatedInvariants : Obligations.ReachableStatesSatisfyTheStatedInvariants := by
  intro m p h a n s hp hm hrun
  obtain ⟨-, hm', hflags, hpos, htimer, hrange, hcmd⟩ := invariant_resetWith hp hm
  have hreset : Invariant { State.resetWith m p with hostIn := h, answers := a } :=
    ⟨(State.paramsOk_congr rfl rfl).trans hp, hm', hflags, hpos, htimer, hrange, hcmd⟩
  have hs : Invariant s := by
    rcases hrun with e | e
    · exact core_run_keeps stepKeepsTheInvariant hreset e
    · exact tickRun_keeps tickStepKeepsTheInvariant hreset e
  obtain ⟨-, -, ⟨hb, hoe, htx, hd, he⟩, ⟨-, hidx, hsync, -⟩, -⟩ := hs
  exact ⟨hb, hoe.trans Phase.acquired_iff_mem, fun h => Phase.high_iff_mem.mp (htx.mp h), hd, he, hidx, hsync⟩

end Sys2Proof.Machine
end

section
/-! SUPPORT. What holds of single steps of the state: the latched operands (10_state.md R21, R22), the driver's port (R29), the reset values (R33), the
fetched words (R23), the refusals (00_scope.md R11) and the timer (R25). -/
namespace Sys2Proof.Machine

/-! ## Operands -/

/-- Settles O37, row by row: only the two rows that end a body count a repeat. -/
theorem operandsStayLatched : Obligations.OperandsStayLatched := by
  intro s t hn hbusy e
  cases step_to e with
  | hold h | start _ _ _ _ h | resetIdle h => exact absurd h hbusy
  | reset k w _ _ hr => exact absurd hn (not_noReset hr)
  | unknown h | invalid h | valid h => exact ⟨rfl, fun hv => absurd h hv, .inl rfl⟩
  | lastRepeat d idx _ _ hr => exact ⟨rfl, fun _ => ⟨rfl, rfl⟩, .inr ⟨by omega, (Nat.sub_eq_zero_of_le hr.le).symm⟩⟩
  | nextRepeat d idx _ _ hr => exact ⟨rfl, fun _ => ⟨rfl, rfl⟩, .inr ⟨Nat.ne_of_gt (Nat.zero_lt_of_lt hr), rfl⟩⟩
  | _ => exact ⟨rfl, fun _ => ⟨rfl, rfl⟩, .inl rfl⟩

/-! ## The driver's port -/

/-- The set-up ticks drive no request. -/
theorem State.settled_drv_req {s : State} (h : s.drv_req = false) : s.settled.drv_req = false := by
  simp [State.settled, h]

/-- The request a phase issues shows on the port after its step. -/
theorem StepTo.drives {s t : State} {op : DrvOp} (hop : s.phase.drvOp = some op) (h : StepTo s t) :
    t.drv_req = true ∧ t.drv_op = op.code := by
  cases h with
  | configureEmpty h | configure h | configureFails h | high h | bodyHigh h | low h | bodyLow h | release h =>
    rw [h] at hop
    cases hop
    exact ⟨rfl, rfl⟩
  | highFails h | lowFails h =>
    rcases h with h | h <;>
    · rw [h] at hop
      cases hop
      exact ⟨rfl, rfl⟩
  | reset k w h =>
    rcases h with h | ⟨d, h⟩
    · simp [h, Phase.drvOp] at hop
    · simp [(State.waitSel_some h).1] at hop
  | symbol _ _ h | lastRepeat _ _ h | nextRepeat _ _ h => rcases h.phase with h | h <;> simp [h, Phase.drvOp] at hop
  | hold h | start _ _ _ _ h | resetIdle h | unknown h | invalid h | valid h | highOver h | syncMore h | syncLast h
  | longOver h | shortOver h | groupMore h | groupLast h | repeatGap h => simp [h, Phase.drvOp] at hop

/-- The step of a phase that issues no request leaves none on the port. -/
theorem StepTo.quiet {s t : State} (hreq : s.drv_req = false ∨ s.phase ≠ .validate) (hop : s.phase.drvOp = none)
    (h : StepTo s t) : t.drv_req = false := by
  cases h with
  | configureEmpty h | configure h | configureFails h | high h | bodyHigh h | low h | bodyLow h | release h =>
    simp [h, Phase.drvOp] at hop
  | highFails h | lowFails h => rcases h with h | h <;> simp [h, Phase.drvOp] at hop
  | unknown h | invalid h | valid h => exact State.settled_drv_req (hreq.resolve_right (absurd h))
  | _ => rfl

/-- Settles O42: the rows of the driver phases are those that drive a request. -/
theorem requestsShowOnThePort : Obligations.RequestsShowOnThePort :=
  fun _ _ _ hreq e => ⟨fun _ hop => (step_to e).drives hop, fun hop => (step_to e).quiet hreq hop⟩

/-! ## Reset -/

theorem resetValues_resetWith (m : Memory) (p : Params) : ResetValues (State.resetWith m p) :=
  ⟨rfl, rfl, rfl, rfl, rfl, rfl, rfl, rfl, rfl, rfl, rfl, rfl, rfl, rfl, rfl, rfl⟩

/-- Settles O18. -/
theorem resetLeavesTheResetValues : Obligations.ResetLeavesTheResetValues :=
  ⟨fun m p => ⟨resetValues_resetWith m p, rfl⟩, fun s => ⟨resetValues_resetWith s.mem s.params, rfl⟩⟩

/-! ## The fetched words -/

theorem State.fetch_idle {s : State} (h : s.phase = .idle) : s.fetch = some (.H, s.hostWord) := by
  simp [State.fetch, h]

theorem State.fetch_drvOp {s : State} {op : DrvOp} (h : s.phase.drvOp = some op) :
    s.fetch = some (.P, op.code.toNat) := by
  obtain ⟨-, -, -, -, hf⟩ := State.drvOp_some h
  exact hf

theorem State.fetch_waitSel {s : State} {d : Dsel} (h : s.waitSel = some d) : s.fetch = some (.T, d.code.toNat) := by
  obtain ⟨-, -, -, -, hf⟩ := State.waitSel_some h
  exact hf

/-- Settles O20: a driver phase fetches its request's code, a waiting phase its duration select. -/
theorem eachPhaseFetchesItsOperation : Obligations.EachPhaseFetchesItsOperation := by
  intro s
  refine ⟨State.fetch_idle, fun h => ?_, fun h => ?_, fun h => ?_, fun h => ?_, fun h => ?_, fun h hl => ?_,
    fun h hl => ?_, fun h => ?_, fun h => ?_, fun h => ?_, fun h => ?_, fun h => ?_⟩
  · exact State.fetch_drvOp (op := .configure) (by rw [h]; rfl)
  · exact State.fetch_drvOp (op := .setHigh) (by rcases h with h | h <;> rw [h] <;> rfl)
  · exact State.fetch_drvOp (op := .setLow) (by rcases h with h | h <;> rw [h] <;> rfl)
  · exact State.fetch_drvOp (op := .release) (by rw [h]; rfl)
  · exact State.fetch_waitSel (d := .son) (by simp [State.waitSel, h])
  · exact State.fetch_waitSel (d := .son) (by simp [State.waitSel, h, hl])
  · exact State.fetch_waitSel (d := .lon) (by simp [State.waitSel, h, hl])
  · exact State.fetch_waitSel (d := .soff) (by rcases h with h | h <;> simp [State.waitSel, h])
  · exact State.fetch_waitSel (d := .loff) (by simp [State.waitSel, h])
  · exact State.fetch_waitSel (d := .hres) (by simp [State.waitSel, h])
  · exact State.fetch_waitSel (d := .rres) (by simp [State.waitSel, h])
  · exact h.elim State.fetch_validate State.fetch_reserved

/-! ## Refusals -/

/-- Under an ill-formed parameter set no operation has a meaning (00_scope.md R11). -/
theorem exec_bad {i : Instr} {s : State} (hi : i.wellFormed s.params.widths = true) (hp : s.paramsOk = false) :
    exec i s = .refused .illFormedParameters := by
  cases i with
  | hold | transmit | transmitDflt | sym | symNeg => exact encodable_bad _ hi hp
  | configure | setHigh | setLow | release | waitSon | waitLon | waitSoff | waitLoff | waitHres | waitRres =>
    exact gated_bad _ hp

/-- Settles O29. -/
theorem reservedPhaseAndBadParametersAreRefused : Obligations.ReservedPhaseAndBadParametersAreRefused :=
  ⟨fun _ => step_reserved, fun _ _ hi hp => ⟨exec_bad hi hp, step_bad hp⟩⟩

/-! ## The timer -/

/-- A tick of a wait in progress with no reset at its edge: the timer is one lower, and the wait is checked for its end. -/
theorem State.waitTick_timerDown {s : State} (d : Dsel) (ht : s.tmr ≠ 0) (hr : s.nextIn.rst = false) :
    s.waitTick d = s.timerDown.waitCheck d := by
  rw [State.waitTick, if_neg ht, State.timerTick_elapsed hr]

theorem State.timerDown_eq_later (s : State) : s.timerDown = { s.later 1 with tmr := s.tmr - 1 } := by
  simp [State.timerDown, State.clockEdge, State.later]

/-- Settles O49: the entry of a wait, a tick that is not its last, its last tick. -/
theorem timerCountsDownOnePerTick : Obligations.TimerCountsDownOnePerTick := by
  intro s d hp h
  rw [tickStep_wait hp h]
  refine ⟨fun ht hd => ?_, fun ht hr => ?_, fun ht hr => ?_⟩
  · rw [State.waitTick, if_pos ht]
    exact if_neg hd
  · have ht1 : s.timerDown.tmr ≠ 0 := Nat.sub_ne_zero_of_lt ht
    rw [State.waitTick_timerDown d (by omega) hr, State.waitCheck, if_neg ht1, State.timerDown_eq_later]
  · have ht0 : s.timerDown.tmr = 0 := Nat.sub_eq_zero_of_le ht.le
    rw [State.waitTick_timerDown d (by omega) hr, State.waitCheck, if_pos ht0, State.timerDown_eq_later, ht]
    rfl

end Sys2Proof.Machine
end

section
/-! SUPPORT. The stores and the parameters (20_memory.md R54): no operation writes them, and so no step, at either level. -/
namespace Sys2Proof.Machine

/-! ## Meanings that answer -/

/-- A gated meaning that answers holds under a well-formed parameter set, and its answer is the state it names. -/
theorem gated_eq_next_iff {s t u : State} : gated s t = .next u ↔ s.paramsOk = true ∧ t = u := by
  cases hp : s.paramsOk <;> simp [gated, hp]

/-- A meaning with operands that answers also has operands that fit their fields (log 13). -/
theorem encodable_eq_next_iff {i : Instr} {s t u : State} : encodable i s t = .next u ↔
    i.wellFormed s.params.widths = true ∧ s.paramsOk = true ∧ t = u := by
  cases hi : i.wellFormed s.params.widths <;> simp [encodable, hi, gated_eq_next_iff]

/-! ## The operations -/

theorem State.start_mem_params (s : State) (rep cmd : Nat) :
    (s.start rep cmd).mem = s.mem ∧ (s.start rep cmd).params = s.params := by
  cases hb : s.busy <;> simp [State.start, hb]

theorem State.raise_mem_params (s : State) (e : ErrKind) : (s.raise e).mem = s.mem ∧ (s.raise e).params = s.params := by
  cases e <;> exact ⟨rfl, rfl⟩

/-- A request whose effect on `ok` writes neither the stores nor the parameters writes neither on any answer. -/
theorem State.requestOr_mem_params (s : State) (op : DrvOp) {f : State → State} (e : ErrKind)
    (hf : ∀ u, (f u).mem = u.mem ∧ (f u).params = u.params) :
    (s.requestOr op f e).mem = s.mem ∧ (s.requestOr op f e).params = s.params := by
  rcases s.nextAnswer_cases with h | h
  · rw [State.requestOr_ok op f e h]
    exact hf _
  · rw [State.requestOr_fail op f e h]
    exact State.raise_mem_params _ e

/-- A wait writes neither the stores nor the parameters, whether it is over or cut by a reset. -/
theorem waitFor_mem_params {d : Dsel} {s t : State} (e : waitFor d s = .next t) : t.mem = s.mem ∧ t.params = s.params := by
  obtain ⟨hp, -⟩ := gated_eq_next_iff.mp e
  rcases waitFor_cases d s hp with ⟨-, h⟩ | ⟨k, -, -, -, -, h⟩ <;>
  · cases h.symm.trans e
    exact ⟨rfl, rfl⟩

/-- No operation writes the stores or the parameters (20_memory.md R54). -/
theorem exec_mem_params {i : Instr} {s t : State} (e : exec i s = .next t) : t.mem = s.mem ∧ t.params = s.params := by
  cases i with
  | hold | sym =>
    obtain ⟨-, -, rfl⟩ := encodable_eq_next_iff.mp e
    exact ⟨rfl, rfl⟩
  | transmit | transmitDflt =>
    obtain ⟨-, -, rfl⟩ := encodable_eq_next_iff.mp e
    exact s.start_mem_params _ _
  | symNeg =>
    obtain ⟨-, -, rfl⟩ := encodable_eq_next_iff.mp e
    exact s.raise_mem_params _
  | configure | setHigh | setLow =>
    obtain ⟨-, rfl⟩ := gated_eq_next_iff.mp e
    exact s.requestOr_mem_params _ _ fun _ => ⟨rfl, rfl⟩
  | release =>
    obtain ⟨-, rfl⟩ := gated_eq_next_iff.mp e
    exact ⟨rfl, rfl⟩
  | waitSon | waitLon | waitSoff | waitLoff | waitHres | waitRres => exact waitFor_mem_params e

/-- Settles O36: a step is a row of the step table, a tick-level step is one or a tick within one, and an operation is one of `Instr`. -/
theorem storesAreNeverWritten : Obligations.StoresAreNeverWritten := by
  rintro s t (e | e | ⟨i, e⟩)
  · exact (step_to e).mem_params
  · exact (tickStep_to e).elim StepTo.mem_params TickWithin.mem_params
  · exact exec_mem_params e

end Sys2Proof.Machine
end

section
/-! SUPPORT. The words that select no operation (30_encoding.md R70, R77, R78), the words the spec writes out, and the durations that the six
waits read from the constant store (R75, R76). -/
namespace Sys2Proof

/-! ## Refused words -/

/-- A number with a bit above its format is refused in every format (30_encoding.md R70). -/
theorem decode_of_wide {W : Widths} {f : Format} {w : Nat} (hw : 2 ^ f.width W ≤ w) : decode W f w = .error .tooWide :=
  if_pos hw

theorem decode_D_of_lt {W : Widths} {w : Nat} (hw : w < 2 ^ (W.addrW + W.lenW)) : decode W .D w = .error .dataFormat :=
  if_neg (Nat.not_le.mpr hw)

theorem decode_P_of_lt {W : Widths} {w : Nat} (hw : w < 2 ^ 2) : decode W .P w = .ok (decodeP (BitVec.ofNat 2 w)) :=
  if_neg (Nat.not_le.mpr hw)

theorem decode_T_of_lt {W : Widths} {w : Nat} (hw : w < 2 ^ 3) : decode W .T w = decodeT (BitVec.ofNat 3 w) :=
  if_neg (Nat.not_le.mpr hw)

/-- The codes 0 to 5 are the duration selects; 6 and 7 are the reserved ones (30_encoding.md R75, R78). -/
theorem decodeT_eq_error_iff {w : Nat} {e : DecodeError} (hw : w < 2 ^ 3) :
    decodeT (BitVec.ofNat 3 w) = .error e ↔ e = .reservedWait ∧ 6 ≤ w := by
  rcases Nat.lt_or_ge w 6 with hsel | hres
  · have hok : ∃ d : Dsel, decodeT (BitVec.ofNat 3 w) = .ok d.instr := by
      interval_cases w
      exacts [⟨.son, rfl⟩, ⟨.lon, rfl⟩, ⟨.soff, rfl⟩, ⟨.loff, rfl⟩, ⟨.hres, rfl⟩, ⟨.rres, rfl⟩]
    obtain ⟨d, hd⟩ := hok
    simp [hd, Nat.not_le.mpr hsel]
  · have herr : decodeT (BitVec.ofNat 3 w) = .error .reservedWait := by
      interval_cases w <;> rfl
    simp [herr, hres, eq_comm]

/-- A word no wider than its format is refused only as a directory word, or with a reserved duration select. -/
theorem decode_eq_error_iff_of_lt {W : Widths} {f : Format} {w : Nat} {e : DecodeError} (hw : w < 2 ^ f.width W) :
    decode W f w = .error e ↔ (e = .dataFormat ∧ f = .D) ∨ (e = .reservedWait ∧ f = .T ∧ 6 ≤ w) := by
  cases f with
  | H => simp [decode_H_of_lt hw]
  | D => simp [decode_D_of_lt hw, eq_comm]
  | S => simp [decode_S_of_lt hw]
  | P => simp [decode_P_of_lt hw]
  | T => simp [decode_T_of_lt hw, decodeT_eq_error_iff hw]

/-- Settles O3: a number wider than its format is refused as such and meets no other clause; a word that fits meets only the other two. -/
theorem refusedWordsAreTheReservedOnes : Obligations.RefusedWordsAreTheReservedOnes := by
  intro W f w e
  rcases Nat.lt_or_ge w (2 ^ f.width W) with hfit | hwide
  · rw [decode_eq_error_iff_of_lt hfit]
    constructor
    · rintro (⟨rfl, rfl⟩ | ⟨rfl, rfl, h6⟩)
      · exact .inr (.inl ⟨rfl, rfl, hfit⟩)
      · exact .inr (.inr ⟨rfl, rfl, h6, hfit⟩)
    · rintro (⟨-, hwide⟩ | ⟨he, hf, -⟩ | ⟨he, hf, h6, -⟩)
      · exact absurd hfit (Nat.not_lt.mpr hwide)
      · exact .inl ⟨he, hf⟩
      · exact .inr ⟨he, hf, h6⟩
  · rw [decode_of_wide hwide]
    constructor
    · rintro ⟨⟩
      exact .inl ⟨rfl, hwide⟩
    · rintro (⟨rfl, -⟩ | ⟨-, rfl, hfit⟩ | ⟨-, rfl, -, hfit⟩)
      · rfl
      · exact absurd hfit (Nat.not_lt.mpr hwide)
      · exact absurd hfit (Nat.not_lt.mpr hwide)

/-! ## Words written out in the spec -/

/-- The word of a well-formed operation decodes to it (O1, at a word given by its value). -/
theorem decode_of_encode_eq {W : Widths} {i : Instr} {f : Format} {w : Nat} (hW : W.ok = true)
    (hi : i.wellFormed W = true) (hw : encode W i = (f, w)) : decode W f w = .ok i := by
  simpa only [hw] using decodeOfEncodeIsIdentity W i hW hi

/-- Settles O5: each word is, at the default widths, the word of the operation named. -/
theorem specWordsDecode : Obligations.SpecWordsDecode := by
  have word {i : Instr} {f : Format} {w : Nat} (hi : i.wellFormed .default = true) (hw : encode .default i = (f, w)) :
      decode .default f w = .ok i := decode_of_encode_eq rfl hi hw
  have request (op : DrvOp) := Machine.decode_drvCode .default op
  have select (d : Dsel) := Machine.decode_dselCode .default d
  exact ⟨word rfl rfl, word rfl rfl, word rfl rfl,
    word rfl rfl, word rfl rfl, word (by decide) (by decide), word (by decide) (by decide),
    request .configure, request .setHigh, request .setLow, request .release,
    select .son, select .lon, select .soff, select .loff, select .hres, select .rres⟩

end Sys2Proof

namespace Sys2Proof.Machine

/-! ## Durations of the waits -/

/-- With well-formed parameters the header residual and the short gap make up the header wait (00_scope.md R11; 30_encoding.md R76e). -/
theorem State.hdrRes_add_shortOff {s : State} (hp : s.paramsOk = true) :
    s.mem.hdrRes + s.mem.shortOff = s.mem.headerWait := by
  obtain ⟨-, ⟨hle, -⟩, -⟩ := State.paramsOk_iff.mp hp
  exact Nat.sub_add_cancel hle

/-- With well-formed parameters the repeat residual and the short gap make up the send wait (00_scope.md R11; 30_encoding.md R76e). -/
theorem State.repRes_add_shortOff {s : State} (hp : s.paramsOk = true) :
    s.mem.repRes + s.mem.shortOff = s.mem.sendWait := by
  obtain ⟨-, ⟨-, hle⟩, -⟩ := State.paramsOk_iff.mp hp
  exact Nat.sub_add_cancel hle

/-- Settles O15: four durations are stored words by definition, and neither residual is cut off at 0. -/
theorem waitDurationsComeFromTheConstantStore : Obligations.WaitDurationsComeFromTheConstantStore :=
  fun _ hp => ⟨rfl, rfl, rfl, rfl, State.hdrRes_add_shortOff hp, State.repRes_add_shortOff hp⟩

end Sys2Proof.Machine
end

section
/-! SUPPORT. The Message Encoder: the function `encode` (41_encoder.md R100 to R106), the symbol words (R101, R105) and the validation scan (R109;
40_symbol_table.md R98). -/
namespace Sys2Proof.Machine

/-! ## The validation scan -/

/-- The symbols read from address `a` are those at the `n` addresses from there on. -/
theorem Memory.mem_symbols {m : Memory} {a n w : Nat} : w ∈ m.symbols a n ↔ ∃ i, i < n ∧ m.readSym (a + i) = w := by
  rw [List.mem_iff_getElem?]
  constructor
  · rintro ⟨i, hi⟩
    have hlt : i < n := by simpa using (List.getElem?_eq_some_iff.mp hi).1
    exact ⟨i, hlt, Option.some.inj ((m.getElem?_symbols a n i hlt).symm.trans hi)⟩
  · rintro ⟨i, hlt, rfl⟩
    exact ⟨i, m.getElem?_symbols a n i hlt⟩

/-- A valid command, clause by clause: it lies in the store, or is empty, and no symbol is negative (41_encoder.md R109). -/
theorem commandValid_iff {s : State} : CommandValid s ↔
    (s.len_r = 0 ∨ s.base_r + s.len_r ≤ s.params.symDepth) ∧
      ∀ i, i < s.len_r → 0 ≤ symInt s.params.widths (s.mem.readSym (s.base_r + i)) := by
  simp [CommandValid, entryFits, firstNegative_eq_none, Memory.mem_symbols]

/-- With the set-up time over, the step of the validation phase is the validation. -/
theorem step_validate_now {s : State} (hp : s.paramsOk = true) (h : s.phase = .validate) (h0 : s.setup_left = 0) :
    step s = s.validate :=
  (step_validate hp h).trans (State.validateStep_zero h0)

/-- An identifier without an entry takes the error before anything is looked up (40_symbol_table.md R98). -/
theorem validate_of_unknown {s : State} (hp : s.paramsOk = true) (hc : s.params.nCmds ≤ s.cmd_r) :
    s.validate = .next (s.raise .invalidCommand) := by
  rcases validate_cases hp with ⟨-, e⟩ | ⟨hc', -⟩
  · exact e
  · exact absurd hc' (Nat.not_lt.mpr hc)

/-- A command that is not valid takes the error, with its entry looked up (41_encoder.md R109). -/
theorem validate_of_invalid {s : State} (hp : s.paramsOk = true) (hc : s.cmd_r < s.params.nCmds)
    (hv : ¬ CommandValid s.lookedUp) : s.validate = .next (s.lookedUp.raise .invalidCommand) := by
  rcases validate_cases hp with ⟨hc', -⟩ | ⟨-, t, rfl, ⟨-, e⟩ | ⟨hv', -⟩⟩
  · exact absurd hc (Nat.not_lt.mpr hc')
  · exact e
  · exact absurd hv' hv

theorem validate_of_valid {s : State} (hp : s.paramsOk = true) (hc : s.cmd_r < s.params.nCmds)
    (hv : CommandValid s.lookedUp) : s.validate = .next { s.lookedUp with phase := .config } := by
  rcases validate_cases hp with ⟨hc', -⟩ | ⟨-, t, rfl, ⟨hv', -⟩ | ⟨-, e⟩⟩
  · exact absurd hc (Nat.not_lt.mpr hc')
  · exact absurd hv hv'
  · exact e

/-- Settles O28: the step is the validation, and either clause of a rejected entry contradicts the command's validity. -/
theorem validationAcceptsExactlyValidCommands : Obligations.ValidationAcceptsExactlyValidCommands := by
  intro s hp h h0
  rw [step_validate_now hp h h0]
  refine ⟨validate_of_unknown hp, fun hc hbad => validate_of_invalid hp hc fun hv => ?_,
    fun hc hfits hsym => validate_of_valid hp hc (commandValid_iff.mpr ⟨hfits, hsym⟩)⟩
  obtain ⟨hfits, hsym⟩ := commandValid_iff.mp hv
  rcases hbad with ⟨hlen, hover⟩ | ⟨i, hi, hneg⟩
  · exact hfits.elim (Nat.ne_of_gt hlen) (Nat.not_le.mpr hover)
  · exact absurd hneg (Int.not_lt.mpr (hsym i hi))

/-! ## Symbol words -/

/-- Settles O9. -/
theorem symbolStartsItsGroup : Obligations.SymbolStartsItsGroup :=
  fun _ _ hp hn => encodable_ok _ (decide_eq_true hn) hp

/-- Settles O10: a negative operand that fits its field is well formed, and its meaning takes the error. -/
theorem negativeSymbolRaisesInvalidCommand : Obligations.NegativeSymbolRaisesInvalidCommand := by
  intro n s hp hlo hneg
  exact exec_symNeg hp (by simp [Instr.wellFormed, hlo, hneg])

/-! ## The function `encode` -/

theorem length_group (n : Nat) : (group n).length = n + 1 := by
  simp [group]

/-- The first `n` pulses of a group are long (41_encoder.md R101). -/
theorem take_group (n : Nat) : (group n).take n = List.replicate n .longOn :=
  List.take_left' List.length_replicate

/-- The last pulse of a group is short (41_encoder.md R101). -/
theorem getLast?_group (n : Nat) : (group n).getLast? = some .shortOn :=
  List.getLast?_concat

/-- One pulse more than the symbol in each group (41_encoder.md R106). -/
theorem length_flatten_map_group (c : List Nat) : (c.map group).flatten.length = c.length + c.sum := by
  induction c with
  | nil => rfl
  | cons n c ih =>
    simp only [List.map_cons, List.flatten_cons, List.length_append, length_group, ih, List.length_cons, List.sum_cons]
    omega

theorem encodeCommand_of_negative {c : List Int} (h : ∃ n ∈ c, n < 0) : encodeCommand c = .error .invalidCommand :=
  if_pos (by simpa using h)

theorem encodeCommand_of_nonneg {c : List Int} (h : ∀ n ∈ c, 0 ≤ n) :
    encodeCommand c = .ok (c.map fun n => group n.toNat) :=
  if_neg (by simpa using h)

/-- A sequence of naturals is encoded group by group. -/
theorem encodeCommand_map_ofNat (c : List Nat) : encodeCommand (c.map Int.ofNat) = .ok (c.map group) := by
  rw [encodeCommand_of_nonneg (by simp), List.map_map]
  rfl

/-- Settles O51: a sequence that is not rejected has no negative element, and the encoder answers its groups. -/
theorem encodeRejectsExactlyNegatives : Obligations.EncodeRejectsExactlyNegatives := by
  refine fun c => ⟨⟨fun e => ?_, encodeCommand_of_negative⟩, encodeCommand_of_nonneg⟩
  by_contra hn
  have hok := encodeCommand_of_nonneg (c := c) (by simpa using hn)
  cases hok.symm.trans e

/-- Settles O50: group `i` is the group of symbol `i`. -/
theorem encodedCommandHasTheStatedShape : Obligations.EncodedCommandHasTheStatedShape := by
  refine fun c => ⟨_, encodeCommand_map_ofNat c, List.length_map _, fun i n hi => ?_, length_flatten_map_group c⟩
  exact ⟨group n, by rw [List.getElem?_map, hi]; rfl, length_group n, take_group n, getLast?_group n⟩

end Sys2Proof.Machine
end

section
/-! SUPPORT. The step table forwards (42_transmitter.md R118, R119): what the step of each phase answers, driver phases by the driver's answer and waiting
phases when no reset comes; that a state with the invariant is never stuck; and the level `tx` holds (R124). -/
namespace Sys2Proof.Machine

/-! ## The position update, phase by phase -/

theorem State.advance_config_empty {t : State} (h : t.phase = .config) (hl : t.rep_left = 0) :
    t.advance = .next { t with phase := .release } := by
  simp only [State.advance, h, if_pos hl]

theorem State.advance_config {t : State} (h : t.phase = .config) (hl : t.rep_left ≠ 0) : t.advance = .next t.hdrStart := by
  simp only [State.advance, h, if_neg hl]

theorem State.advance_hdrHi {t : State} (h : t.phase = .hdrHi) : t.advance = .next { t with phase := .hdrHiW } := by
  simp [State.advance, h]

theorem State.advance_hdrHiW {t : State} (h : t.phase = .hdrHiW) : t.advance = .next { t with phase := .hdrLo } := by
  simp [State.advance, h]

theorem State.advance_hdrLo {t : State} (h : t.phase = .hdrLo) : t.advance = .next { t with phase := .hdrLoW } := by
  simp [State.advance, h]

theorem State.advance_hdrLoW_more {t : State} (h : t.phase = .hdrLoW) (hs : 1 < t.sync_left) :
    t.advance = .next { t with sync_left := t.sync_left - 1, phase := .hdrHi } := by
  have h0 : t.sync_left ≠ 0 := by omega
  have h1 : t.sync_left - 1 ≠ 0 := by omega
  simp only [State.advance, h, if_neg h0, if_neg h1]

theorem State.advance_hdrLoW_last {t : State} (h : t.phase = .hdrLoW) (hs : t.sync_left = 1) :
    t.advance = .next { t with sync_left := 0, phase := .hdrRes } := by
  simp [State.advance, h, hs]

theorem State.advance_hdrRes {t : State} (h : t.phase = .hdrRes) :
    t.advance = State.dispatchSymbol { t with sym_idx := 0 } := by
  simp [State.advance, h]

theorem State.advance_bodyHi {t : State} (h : t.phase = .bodyHi) : t.advance = .next { t with phase := .bodyHiW } := by
  simp [State.advance, h]

theorem State.advance_bodyHiW {t : State} (h : t.phase = .bodyHiW) : t.advance = .next { t with phase := .bodyLo } := by
  simp [State.advance, h]

theorem State.advance_bodyLo {t : State} (h : t.phase = .bodyLo) : t.advance = .next { t with phase := .bodyLoW } := by
  simp [State.advance, h]

theorem State.advance_bodyLoW_more {t : State} (h : t.phase = .bodyLoW) (hl : t.long_left ≠ 0) :
    t.advance = .next { t with long_left := t.long_left - 1, phase := .bodyHi } := by
  simp only [State.advance, h, if_neg hl]

theorem State.advance_bodyLoW_last {t : State} (h : t.phase = .bodyLoW) (hl : t.long_left = 0) :
    t.advance = .next { t with phase := .grpGap } := by
  simp only [State.advance, h, if_pos hl]

theorem State.advance_grpGap {t : State} (h : t.phase = .grpGap) (hi : t.sym_idx < t.len_r) :
    t.advance = State.dispatchSymbol { t with sym_idx := t.sym_idx + 1 } := by
  simp only [State.advance, h, if_pos hi]

theorem State.advance_repGap {t : State} (h : t.phase = .repGap) : t.advance = .next t.hdrStart := by
  simp [State.advance, h]

/-! ## Driver phases -/

/-- What a request leaves that is answered `ok`: its event and its effect (43_pin_driver_ops.md R141 to R144). -/
def State.granted (s : State) (op : DrvOp) : State :=
  match op with
  | .configure => { s.requested .configure false with tx_oe := true }
  | .setHigh => { s.requested .setHigh false with tx := true }
  | .setLow => { s.requested .setLow false with tx := false }
  | .release => { (s.requested .release false).finish with tx := false, tx_oe := false }

@[simp] theorem State.granted_mem (s : State) (op : DrvOp) : (s.granted op).mem = s.mem := by
  cases op <;> rfl
@[simp] theorem State.granted_params (s : State) (op : DrvOp) : (s.granted op).params = s.params := by
  cases op <;> rfl
@[simp] theorem State.granted_sym_idx (s : State) (op : DrvOp) : (s.granted op).sym_idx = s.sym_idx := by
  cases op <;> rfl
@[simp] theorem State.granted_rep_left (s : State) (op : DrvOp) : (s.granted op).rep_left = s.rep_left := by
  cases op <;> rfl
@[simp] theorem State.granted_hostIn (s : State) (op : DrvOp) : (s.granted op).hostIn = s.hostIn := by
  cases op <;> rfl
@[simp] theorem State.granted_tmr (s : State) (op : DrvOp) : (s.granted op).tmr = s.tmr := by
  cases op <;> rfl
@[simp] theorem State.granted_edge (s : State) (op : DrvOp) : (s.granted op).edge = s.edge := by
  cases op <;> rfl
@[simp] theorem State.granted_trace (s : State) (op : DrvOp) : (s.granted op).trace = s.trace ++ [.req op false] := by
  cases op <;> rfl
@[simp] theorem State.granted_long_left (s : State) (op : DrvOp) : (s.granted op).long_left = s.long_left := by
  cases op <;> rfl
@[simp] theorem State.granted_answers (s : State) (op : DrvOp) : (s.granted op).answers = (s.request op).answers := by
  cases op <;> rfl
@[simp] theorem State.granted_draws (s : State) (op : DrvOp) : (s.granted op).draws = (s.request op).draws := by
  cases op <;> rfl

/-- The error that a failed request takes (60_exceptions.md R160). A failed `RELEASE` takes none (R167): its value is not used. -/
def errorOf : DrvOp → ErrKind
  | .configure => .resourceUnavailable
  | .setHigh | .setLow | .release => .driverFault

theorem exec_drvInstr_ok {s : State} {op : DrvOp} (hp : s.paramsOk = true) (hop : op ≠ .release)
    (ha : s.nextAnswer = .ok) : exec op.instr s = .next (s.granted op) := by
  cases op with
  | configure | setHigh | setLow => exact (gated_ok _ hp).trans (by rw [State.requestOr_ok _ _ _ ha]; rfl)
  | release => exact absurd rfl hop

theorem exec_drvInstr_fail {s : State} {op : DrvOp} (hp : s.paramsOk = true) (hop : op ≠ .release)
    (ha : s.nextAnswer = .fail) : exec op.instr s = .next ((s.requested op true).raise (errorOf op)) := by
  cases op with
  | configure | setHigh | setLow => exact (gated_ok _ hp).trans (by rw [State.requestOr_fail _ _ _ ha]; rfl)
  | release => exact absurd rfl hop

theorem exec_release_next {s : State} (hp : s.paramsOk = true) :
    exec .release s = .next (s.granted .release) := gated_ok _ hp

/-- A request answered `ok` has its effect and the position advances. -/
theorem step_driver_ok {s : State} {op : DrvOp} (hp : s.paramsOk = true) (h : s.phase.drvOp = some op)
    (hop : op ≠ .release) (ha : s.nextAnswer = .ok) : step s = (s.granted op).advance := by
  have hph : (s.granted op).phase = s.phase := by
    cases op with
    | configure | setHigh | setLow => rfl
    | release => exact absurd rfl hop
  rw [step_driver hp h, exec_drvInstr_ok hp hop ha, afterOp_next_of_eq hph]

/-- A failed request takes its error, and the position does not advance. -/
theorem step_driver_fail {s : State} {op : DrvOp} (hp : s.paramsOk = true) (h : s.phase.drvOp = some op)
    (hop : op ≠ .release) (ha : s.nextAnswer = .fail) : step s = .next ((s.requested op true).raise (errorOf op)) := by
  have hph : ((s.requested op true).raise (errorOf op)).phase ≠ s.phase := by
    intro e
    rw [← e] at h
    cases op with
    | configure | setHigh | setLow => cases h
    | release => exact hop rfl
  rw [step_driver hp h, exec_drvInstr_fail hp hop ha, afterOp_next_of_ne hph]

theorem Phase.drvOp_eq_release {p : Phase} (h : p.drvOp = some .release) : p = .release := by
  cases p <;> simp [Phase.drvOp] at h ⊢

theorem step_release {s : State} (hp : s.paramsOk = true) (h : s.phase = .release) :
    step s = .next (s.granted .release) := by
  have hop : s.phase.drvOp = some .release := by rw [h]; rfl
  have hph : (s.granted .release).phase ≠ s.phase := by rw [h]; nofun
  rw [step_driver hp hop]
  exact (congrArg (afterOp s.phase) (exec_release_next hp)).trans (afterOp_next_of_ne hph)

/-- Settles O22: the effect of the request and then the position update of the phase. -/
theorem stepTableOfDriverPhases : Obligations.StepTableOfDriverPhases := by
  intro s hp
  have hstep {p : Phase} {op : DrvOp} (h : s.phase = p) (hd : p.drvOp = some op) (hop : op ≠ .release)
      (ha : s.nextAnswer = .ok) : step s = (s.granted op).advance :=
    step_driver_ok hp (h ▸ hd) hop ha
  refine ⟨fun ha => ⟨fun h hl => ?_, fun h hl => ?_, fun h => ?_, fun h => ?_, fun h => ?_, fun h => ?_⟩, step_release hp⟩
  · exact (hstep h rfl nofun ha).trans (State.advance_config_empty h hl)
  · exact (hstep h rfl nofun ha).trans (State.advance_config h hl)
  · exact (hstep h rfl nofun ha).trans (State.advance_hdrHi h)
  · exact (hstep h rfl nofun ha).trans (State.advance_bodyHi h)
  · exact (hstep h rfl nofun ha).trans (State.advance_hdrLo h)
  · exact (hstep h rfl nofun ha).trans (State.advance_bodyLo h)

/-- Settles O23: a failed request takes the error of its operation. -/
theorem driverFailureTakesItsError : Obligations.DriverFailureTakesItsError := by
  intro s hp ha
  refine ⟨fun h => ?_, fun h => ?_, fun h => ?_⟩
  · exact step_driver_fail (op := .configure) hp (by rw [h]; rfl) nofun ha
  · exact step_driver_fail (op := .setHigh) hp (by rcases h with h | h <;> rw [h] <;> rfl) nofun ha
  · exact step_driver_fail (op := .setLow) hp (by rcases h with h | h <;> rw [h] <;> rfl) nofun ha

/-! ## Waiting phases -/

/-- With no reset the wait runs to its end and the position advances. -/
theorem step_wait_over {s : State} {d : Dsel} (hp : s.paramsOk = true) (hn : NoReset s) (h : s.waitSel = some d) :
    step s = (s.waited d).advance := by
  obtain ⟨n, rfl, ⟨-, e⟩ | ⟨k, w, -, -, hr, -⟩⟩ := step_wait_cases hp h
  · exact e
  · exact absurd hn (not_noReset hr)

/-- With no wait in progress the whole wait is still to come. -/
theorem State.waited_eq_afterWait {s : State} (ht : s.tmr = 0) (d : Dsel) : s.waited d = s.afterWait d := by
  simp only [State.waited, State.waitLeft, if_pos ht, State.afterWait]

/-- A wait that is not in progress yet, with no reset: the whole of it passes and the position advances. -/
theorem step_whole_wait {s : State} {d : Dsel} (hp : s.paramsOk = true) (ht : s.tmr = 0) (hn : NoReset s)
    (h : s.waitSel = some d) : step s = (s.afterWait d).advance :=
  (step_wait_over hp hn h).trans (congrArg _ (State.waited_eq_afterWait ht d))

/-- Settles O24: the whole wait and then the position update of the phase. -/
theorem stepTableOfWaitPhases : Obligations.StepTableOfWaitPhases := by
  intro s hp ht hn
  have hstep {d : Dsel} (hd : s.waitSel = some d) : step s = (s.afterWait d).advance := step_whole_wait hp ht hn hd
  refine ⟨fun h => ?_, fun h hs => ?_, fun h hs => ?_, fun h hl => ?_, fun h hl => ?_, fun h hl => ?_, fun h hl => ?_,
    fun h => ?_⟩
  · exact (hstep (by simp [State.waitSel, h])).trans (State.advance_hdrHiW h)
  · exact (hstep (by simp [State.waitSel, h])).trans (State.advance_hdrLoW_more h hs)
  · exact (hstep (by simp [State.waitSel, h])).trans (State.advance_hdrLoW_last h hs)
  · exact (hstep (by simp [State.waitSel, h, hl])).trans (State.advance_bodyHiW h)
  · exact (hstep (by simp [State.waitSel, h, hl])).trans (State.advance_bodyHiW h)
  · exact (hstep (by simp [State.waitSel, h])).trans (State.advance_bodyLoW_more h hl)
  · exact (hstep (by simp [State.waitSel, h])).trans (State.advance_bodyLoW_last h hl)
  · exact (hstep (by simp [State.waitSel, h])).trans (State.advance_repGap h)

/-! ## `DISPATCH` -/

theorem State.dispatchAt.waitSel {s : State} {d : Dsel} {idx : Nat} (h : s.dispatchAt d idx) : s.waitSel = some d := by
  rcases h with ⟨h, rfl, -⟩ | ⟨h, rfl, -⟩ <;> simp [State.waitSel, h]

/-- The two positions that dispatch do so at their index. -/
theorem State.dispatchAt.advance {s t : State} {d : Dsel} {idx : Nat} (h : s.dispatchAt d idx)
    (hph : t.phase = s.phase) (hidx : t.sym_idx = s.sym_idx) (hlen : t.len_r = s.len_r) :
    t.advance = State.dispatchSymbol { t with sym_idx := idx } := by
  rcases h with ⟨h, -, rfl⟩ | ⟨h, -, rfl, hlt⟩
  · exact State.advance_hdrRes (hph.trans h)
  · rw [← hidx]
    exact State.advance_grpGap (hph.trans h) (by omega)

/-- Settles O25: after the wait `DISPATCH` looks at the index, which is a symbol of the valid command or its end. -/
theorem dispatchFetchesTheNextSymbol : Obligations.DispatchFetchesTheNextSymbol := by
  intro s d idx hp ht hn hv h
  have hat : s.dispatchAt d idx := h
  have hstep : step s = State.dispatchSymbol { s.afterWait d with sym_idx := idx } :=
    (step_whole_wait hp ht hn hat.waitSel).trans (hat.advance rfl rfl rfl)
  have hcases := dispatchSymbol_cases (s := { s.afterWait d with sym_idx := idx }) ((State.paramsOk_congr rfl rfl).trans hp) hv
  rw [hstep]
  refine ⟨fun hi => ?_, fun hi hr => ?_, fun hi hr => ?_⟩ <;>
    rcases hcases with ⟨hlt, e⟩ | ⟨hle, h0, -⟩ | ⟨hle, -, e⟩
  · exact e
  · exact absurd hi (Nat.not_lt.mpr hle)
  · exact absurd hi (Nat.not_lt.mpr hle)
  · exact absurd hlt (Nat.not_lt.mpr hi)
  · exact absurd h0 (by simp [hr])
  · simpa [hr] using e
  · exact absurd hlt (Nat.not_lt.mpr hi)
  · exact absurd h0 (Nat.ne_of_gt (Nat.zero_lt_of_lt hr))
  · have hne : s.rep_left - 1 ≠ 0 := Nat.sub_ne_zero_of_lt hr
    exact e.trans (by simp [hne])

/-! ## The set-up time -/

/-- Settles O27: the set-up ticks pass, and what is left is the validation. -/
theorem setupTimePassesBeforeValidation : Obligations.SetupTimePassesBeforeValidation := by
  intro s hp h h0 hn
  have hlater : step { s.later s.setup_left with setup_left := 0 } =
      State.validate { s.later s.setup_left with setup_left := 0 } :=
    step_validate_now ((State.paramsOk_congr rfl rfl).trans hp) h rfl
  rw [hlater, step_validate hp h, State.validateStep, passTicks_setup hn]
  simp [h0, State.later]

/-! ## The level of the pin -/

/-- Settles O43, row by row: a wait keeps the level, a request that is answered `ok` sets it, and before the first `SetHigh` it is low. -/
theorem txIsTheLevelOfTheTrace : Obligations.TxIsTheLevelOfTheTrace := by
  intro s t hi hn hl e
  obtain ⟨-, -, ⟨-, -, htx, -⟩, -⟩ := hi
  have hlow (h : s.phase = .config) : s.tx = false := by simpa [h, Phase.high] using htx
  cases step_to e with
  | hold | start | unknown | invalid | valid => exact hl
  | resetIdle h hr => exact absurd hn.nextIn (by simp [hr])
  | reset k w _ _ hr => exact absurd hn (not_noReset hr)
  | configureEmpty h | configure h | configureFails h => exact (traceLevel_concat _ _).trans (hlow h).symm
  | high | bodyHigh | highFails | low | bodyLow | lowFails | release => exact traceLevel_concat _ _
  | highOver | syncMore | syncLast | longOver | shortOver | groupMore | groupLast | repeatGap | symbol | lastRepeat
  | nextRepeat => exact (traceLevel_concat _ _).trans hl

/-! ## Progress -/

/-- The end of a wait has a next position. -/
theorem Invariant.exists_advance {s : State} {d : Dsel} (hi : Invariant s) (h : s.waitSel = some d) :
    ∃ t, (s.waited d).advance = .next t := by
  obtain ⟨hp, -, -, ⟨-, -, -, -, hsync, hbody, hrep⟩, -, -, hcmd⟩ := hi
  have hdispatch (idx : Nat) (hat : s.dispatchAt d idx) (hacq : s.phase.acquired = true) (hrel : s.phase ≠ .release) :
      ∃ t, (s.waited d).advance = .next t := by
    rw [hat.advance (t := s.waited d) rfl rfl rfl]
    rcases dispatchSymbol_cases (s := { s.waited d with sym_idx := idx }) ((State.paramsOk_congr rfl rfl).trans hp)
        (hcmd (.inr hacq)) with ⟨-, e⟩ | ⟨-, h0, -⟩ | ⟨-, -, e⟩
    · exact ⟨_, e⟩
    · exact absurd h0 (hrep hacq hrel)
    · exact ⟨_, e⟩
  cases hph : s.phase with
  | hdrHiW => exact ⟨_, State.advance_hdrHiW hph⟩
  | hdrLoW =>
    have h0 : s.sync_left ≠ 0 := hsync (by rw [hph]; rfl)
    rcases Nat.lt_or_ge 1 s.sync_left with h1 | h1
    · exact ⟨_, State.advance_hdrLoW_more hph h1⟩
    · exact ⟨_, State.advance_hdrLoW_last hph (show s.sync_left = 1 by omega)⟩
  | hdrRes =>
    obtain rfl : Dsel.hres = d := by simpa [State.waitSel, hph] using h
    exact hdispatch 0 (.inl ⟨hph, rfl, rfl⟩) (by rw [hph]; rfl) (by rw [hph]; nofun)
  | bodyHiW => exact ⟨_, State.advance_bodyHiW hph⟩
  | bodyLoW =>
    by_cases hl : s.long_left = 0
    · exact ⟨_, State.advance_bodyLoW_last hph hl⟩
    · exact ⟨_, State.advance_bodyLoW_more hph hl⟩
  | grpGap =>
    obtain rfl : Dsel.loff = d := by simpa [State.waitSel, hph] using h
    exact hdispatch _ (.inr ⟨hph, rfl, rfl, hbody (by rw [hph]; rfl)⟩) (by rw [hph]; rfl) (by rw [hph]; nofun)
  | repGap => exact ⟨_, State.advance_repGap hph⟩
  | idle | validate | config | hdrHi | hdrLo | bodyHi | bodyLo | release | reserved => simp [State.waitSel, hph] at h

/-- A request that is answered `ok` has a next position. -/
theorem exists_advance_driver {s : State} {op : DrvOp} (h : s.phase.drvOp = some op) (hop : op ≠ .release) :
    ∃ t, (s.granted op).advance = .next t := by
  cases hph : s.phase with
  | config =>
    rw [hph] at h
    cases h
    by_cases hl : s.rep_left = 0
    · exact ⟨_, State.advance_config_empty hph hl⟩
    · exact ⟨_, State.advance_config hph hl⟩
  | hdrHi => rw [hph] at h; cases h; exact ⟨_, State.advance_hdrHi hph⟩
  | hdrLo => rw [hph] at h; cases h; exact ⟨_, State.advance_hdrLo hph⟩
  | bodyHi => rw [hph] at h; cases h; exact ⟨_, State.advance_bodyHi hph⟩
  | bodyLo => rw [hph] at h; cases h; exact ⟨_, State.advance_bodyLo hph⟩
  | release => rw [hph] at h; cases h; exact absurd rfl hop
  | idle | validate | hdrHiW | hdrLoW | hdrRes | bodyHiW | bodyLoW | grpGap | repGap | reserved =>
    rw [hph] at h; cases h

theorem exists_step_idle {s : State} (hp : s.paramsOk = true) (h : s.phase = .idle) : ∃ t, step s = .next t := by
  rcases step_idle_cases hp h with ⟨-, e⟩ | ⟨-, e⟩
  · exact ⟨_, e⟩
  · rcases exec_decodeH_cases s.clockEdge s.hostWord ((State.paramsOk_congr rfl rfl).trans hp) with
      ex | ⟨-, rep, cmd, -, -, ex⟩
    · have hidle : s.clockEdge.advance = .next s.clockEdge := by simp [State.advance, h]
      exact ⟨_, e.trans ((congrArg (afterOp .idle) ex).trans ((afterOp_next_of_eq (t := s.clockEdge) h).trans hidle))⟩
    · exact ⟨_, e.trans ((congrArg (afterOp .idle) ex).trans (afterOp_next_of_ne nofun))⟩

theorem exists_step_validate {s : State} (hp : s.paramsOk = true) (h : s.phase = .validate) : ∃ t, step s = .next t := by
  rcases step_validate_cases hp h with ⟨-, e⟩ | ⟨k, w, -, -, -, e⟩
  · rcases validate_cases (s := s.settled) ((State.paramsOk_congr rfl rfl).trans hp) with
      ⟨-, ev⟩ | ⟨-, t, -, ⟨-, ev⟩ | ⟨-, ev⟩⟩ <;> exact ⟨_, e.trans ev⟩
  · exact ⟨_, e⟩

/-- A state with the invariant has a next state, whatever the host presents and the driver answers. -/
theorem Invariant.exists_step {s : State} (hi : Invariant s) : ∃ t, step s = .next t := by
  have hinv := hi
  obtain ⟨hp, -, -, ⟨hres, -⟩, -⟩ := hi
  rcases s.phase_kinds with h | h | ⟨op, h⟩ | ⟨d, h⟩ | h
  · exact exists_step_idle hp h
  · exact exists_step_validate hp h
  · by_cases hop : op = .release
    · subst hop
      exact ⟨_, step_release hp (Phase.drvOp_eq_release h)⟩
    · rcases s.nextAnswer_cases with ha | ha
      · rw [step_driver_ok hp h hop ha]
        exact exists_advance_driver h hop
      · exact ⟨_, step_driver_fail hp h hop ha⟩
  · obtain ⟨n, rfl, ⟨-, e⟩ | ⟨k, w, -, -, -, e⟩⟩ := step_wait_cases hp h
    · rw [e]
      exact hinv.exists_advance h
    · exact ⟨_, e⟩
  · exact absurd h hres

end Sys2Proof.Machine
end

section
/-! SUPPORT. The trace of a transmission as a function (42_transmitter.md R111 to R117): its durations (R122, R123), its counts of requests (R125), what a
failed request cuts off (R120) and its waveform (R124). -/
namespace Sys2Proof.Machine

/-! ## What adds up over a trace: lengths, durations and counts -/

section
variable {f : List Event → Nat} (hf : ∀ a b, f (a ++ b) = f a + f b)
include hf

theorem additive_nil : f [] = 0 := by
  have h := hf [] []
  rw [List.append_nil] at h
  omega

theorem additive_repeatTrace (k : Nat) (l : List Event) : f (repeatTrace k l) = k * f l := by
  induction k with
  | zero => simp [additive_nil hf]
  | succ k ih => rw [repeatTrace_succ, hf, ih, Nat.succ_mul, Nat.add_comm]

theorem additive_headerTrace (m : Memory) (k : Nat) :
    f (headerTrace m k) = k * f (pulseTrace m m.shortOn) + f [.wait m.hdrRes] := by
  rw [headerTrace, hf, additive_repeatTrace hf]

theorem additive_groupTrace (m : Memory) (n : Nat) :
    f (groupTrace m n) = n * f (pulseTrace m m.longOn) + f (pulseTrace m m.shortOn) + f [.wait m.longOff] := by
  rw [groupTrace, hf, hf, additive_repeatTrace hf]

theorem additive_bodyTrace (m : Memory) (c : List Nat) :
    f (bodyTrace m c) = (c.map fun n => f (groupTrace m n)).sum := by
  induction c with
  | nil => exact additive_nil hf
  | cons n c ih => rw [bodyTrace_cons, hf, ih, List.map_cons, List.sum_cons]

theorem additive_unitTrace (m : Memory) (k : Nat) (c : List Nat) :
    f (unitTrace m k c) = f (headerTrace m k) + f (bodyTrace m c) := hf _ _

theorem additive_frameTrace_succ (m : Memory) (k : Nat) (c : List Nat) (r : Nat) :
    f (frameTrace m k c (r + 1)) = (r + 1) * f (unitTrace m k c) + r * f (repGapTrace m) := by
  rw [frameTrace, hf, additive_repeatTrace hf, hf]
  ring

theorem additive_transmitOk (m : Memory) (k : Nat) (c : List Nat) (r : Nat) :
    f (transmitOk m k c r) = f [.configure] + f (frameTrace m k c r) + f [.release] := by
  rw [transmitOk, hf, hf]

end

/-! ## Durations -/

theorem traceTicks_pulseTrace (m : Memory) (d : Nat) : traceTicks (pulseTrace m d) = d + m.shortOff := by
  simp [pulseTrace, traceTicks, Event.ticks]

theorem traceTicks_wait (d : Nat) : traceTicks [.wait d] = d := by
  simp [traceTicks, Event.ticks]

theorem traceTicks_groupTrace (m : Memory) (n : Nat) :
    traceTicks (groupTrace m n) = n * m.longOn + m.shortOn + (n + 1) * m.shortOff + m.longOff := by
  rw [additive_groupTrace traceTicks_append, traceTicks_pulseTrace, traceTicks_pulseTrace, traceTicks_wait]
  ring

/-- Settles O52: the pulses and the residual of the header, and the groups of the body. -/
theorem unitDurationIsTheStatedFormula : Obligations.UnitDurationIsTheStatedFormula := by
  intro m k c
  rw [additive_unitTrace traceTicks_append, additive_headerTrace traceTicks_append, additive_bodyTrace traceTicks_append,
    traceTicks_pulseTrace, traceTicks_wait]
  simp only [traceTicks_groupTrace]

/-- Settles O53: the requests at either end take no time. -/
theorem totalDurationIsTheStatedFormula : Obligations.TotalDurationIsTheStatedFormula := by
  intro m k c r
  refine ⟨rfl, ?_⟩
  have hends : traceTicks [.configure] = 0 ∧ traceTicks [.release] = 0 := ⟨rfl, rfl⟩
  rw [additive_transmitOk traceTicks_append, additive_frameTrace_succ traceTicks_append,
    unitDurationIsTheStatedFormula, hends.1, hends.2, repGapTrace, traceTicks_wait, Nat.zero_add, Nat.add_zero]
  rfl

/-! ## Requests -/

/-- The requests of one operation that a pulse makes: one `SetHigh` and one `SetLow` (R112). -/
theorem countReq_pulseTrace (op : DrvOp) (m : Memory) (d : Nat) :
    countReq op (pulseTrace m d) = countReq op [.setHigh, .setLow] := by
  simp [countReq, pulseTrace, List.countP_cons]

theorem countReq_wait (op : DrvOp) (d : Nat) : countReq op [.wait d] = 0 := rfl

theorem countReq_groupTrace (op : DrvOp) (m : Memory) (n : Nat) :
    countReq op (groupTrace m n) = (n + 1) * countReq op [.setHigh, .setLow] := by
  rw [additive_groupTrace (countReq_append op), countReq_pulseTrace, countReq_pulseTrace, countReq_wait]
  ring

theorem countReq_bodyTrace (op : DrvOp) (m : Memory) (c : List Nat) :
    countReq op (bodyTrace m c) = (c.length + c.sum) * countReq op [.setHigh, .setLow] := by
  rw [additive_bodyTrace (countReq_append op)]
  induction c with
  | nil => simp
  | cons n c ih =>
    rw [List.map_cons, List.sum_cons, ih, countReq_groupTrace, List.length_cons, List.sum_cons]
    ring

theorem countReq_unitTrace (op : DrvOp) (m : Memory) (k : Nat) (c : List Nat) :
    countReq op (unitTrace m k c) = (k + (c.length + c.sum)) * countReq op [.setHigh, .setLow] := by
  rw [additive_unitTrace (countReq_append op), additive_headerTrace (countReq_append op), countReq_bodyTrace,
    countReq_pulseTrace, countReq_wait]
  ring

theorem countReq_frameTrace (op : DrvOp) (m : Memory) (k : Nat) (c : List Nat) (r : Nat) :
    countReq op (frameTrace m k c r) = r * (k + (c.length + c.sum)) * countReq op [.setHigh, .setLow] := by
  cases r with
  | zero => simp [frameTrace]
  | succ r =>
    rw [additive_frameTrace_succ (countReq_append op), countReq_unitTrace, repGapTrace, countReq_wait]
    ring

/-- Settles O54: a pulse makes one `SetHigh` and one `SetLow`, and the ends make the other two requests. -/
theorem transmissionRequestCounts : Obligations.TransmissionRequestCounts := by
  intro m k c r l
  have hcount (op : DrvOp) : countReq op l = countReq op [.configure, .release] +
      r * (k + (c.length + c.sum)) * countReq op [.setHigh, .setLow] := by
    rw [additive_transmitOk (countReq_append op), countReq_frameTrace, Nat.add_right_comm, ← countReq_append]
    rfl
  refine ⟨(hcount _).trans ?_, (hcount _).trans ?_, (hcount _).trans ?_, (hcount _).trans ?_⟩ <;>
    simp [countReq]

/-! ## What a failed request cuts off -/

theorem cutTrace_wait (d : Nat) (l : List Event) (a : List Bool) :
    cutTrace (.wait d :: l) a = (.wait d :: (cutTrace l a).1, (cutTrace l a).2) := rfl

/-- A request that is answered `ok`, or a `Release`, cuts nothing off (R120; log 10). -/
theorem cutTrace_kept {op : DrvOp} {f : Bool} {l : List Event} {a : List Bool} (h : a.headD false = false ∨ op = .release) :
    cutTrace (.req op f :: l) a = (.req op false :: (cutTrace l a.tail).1, (cutTrace l a.tail).2) :=
  if_neg fun hc => h.elim (fun h => Bool.false_ne_true (h.symm.trans hc.1)) hc.2

theorem cutTrace_configure_fails {f : Bool} {l : List Event} {a : List Bool} (h : a.headD false = true) :
    cutTrace (.req .configure f :: l) a = ([.req .configure true], some .resourceUnavailable) :=
  (if_pos ⟨h, nofun⟩).trans (if_pos rfl)

theorem cutTrace_fails {op : DrvOp} {f : Bool} {l : List Event} {a : List Bool} (hc : op ≠ .configure)
    (hr : op ≠ .release) (h : a.headD false = true) :
    cutTrace (.req op f :: l) a = ([.req op true, .release], some .driverFault) :=
  (if_pos ⟨h, hr⟩).trans (if_neg hc)

theorem countReq_cons_wait (op : DrvOp) (d : Nat) (l : List Event) : countReq op (.wait d :: l) = countReq op l :=
  List.countP_cons_of_neg Bool.false_ne_true

theorem countReq_cons_self (op : DrvOp) (f : Bool) (l : List Event) : countReq op (.req op f :: l) = countReq op l + 1 :=
  List.countP_cons_of_pos (decide_eq_true rfl)

theorem countReq_cons_of_ne {op op' : DrvOp} (h : op' ≠ op) (f : Bool) (l : List Event) :
    countReq op (.req op' f :: l) = countReq op l :=
  List.countP_cons_of_neg (by simpa using h)

/-- The first request of a trace with no request of one operation is another. -/
theorem countReq_cons_eq_zero {op op' : DrvOp} {f : Bool} {l : List Event} (h : countReq op (.req op' f :: l) = 0) :
    op' ≠ op ∧ countReq op l = 0 := by
  by_cases e : op' = op
  · subst e
    rw [countReq_cons_self] at h
    cases h
  · exact ⟨e, (countReq_cons_of_ne e f l).symm.trans h⟩

/-- Once the pin is acquired the trace ends, cut off or not, with its one `Release`, and makes no other `Configure`. -/
theorem cutTrace_ends_in_release {l : List Event} (hc : countReq .configure l = 0) (hr : countReq .release l = 0)
    (a : List Bool) : countReq .configure (cutTrace (l ++ [.release]) a).1 = 0 ∧
      countReq .release (cutTrace (l ++ [.release]) a).1 = 1 ∧
      (cutTrace (l ++ [.release]) a).1.getLast? = some .release := by
  induction l generalizing a with
  | nil =>
    rw [List.nil_append, cutTrace_kept (.inr rfl)]
    exact ⟨rfl, rfl, rfl⟩
  | cons e l ih =>
    cases e with
    | wait d =>
      obtain ⟨h1, h2, h3⟩ := ih ((countReq_cons_wait _ d l).symm.trans hc) ((countReq_cons_wait _ d l).symm.trans hr) a
      rw [List.cons_append, cutTrace_wait]
      exact ⟨(countReq_cons_wait _ _ _).trans h1, (countReq_cons_wait _ _ _).trans h2, by rw [List.getLast?_cons, h3]; rfl⟩
    | req op f =>
      obtain ⟨hopc, hc⟩ := countReq_cons_eq_zero hc
      obtain ⟨hopr, hr⟩ := countReq_cons_eq_zero hr
      rw [List.cons_append]
      cases ha : a.headD false
      · obtain ⟨h1, h2, h3⟩ := ih hc hr a.tail
        rw [cutTrace_kept (.inl ha)]
        exact ⟨(countReq_cons_of_ne hopc _ _).trans h1, (countReq_cons_of_ne hopr _ _).trans h2,
          by rw [List.getLast?_cons, h3]; rfl⟩
      · rw [cutTrace_fails hopc hopr ha]
        exact ⟨countReq_cons_of_ne hopc _ _, countReq_cons_of_ne hopr _ _, rfl⟩

/-- Settles O55: a failed `Configure` is the whole trace, and after any other the frame makes neither request. -/
theorem releaseExactlyWhenAcquired : Obligations.ReleaseExactlyWhenAcquired := by
  intro m k c r a l
  have hl : l = (cutTrace (.configure :: (frameTrace m k c r ++ [.release])) a).1 := rfl
  cases ha : a.headD false
  · obtain ⟨h1, h2, h3⟩ := cutTrace_ends_in_release (countReq_frameTrace .configure m k c r)
      (countReq_frameTrace .release m k c r) a.tail
    rw [hl, cutTrace_kept (.inl ha)]
    exact ⟨(countReq_cons_self _ _ _).trans (congrArg _ h1), fun _ => ⟨(countReq_cons_of_ne (by decide) _ _).trans h2,
      by rw [List.getLast?_cons, h3]; rfl⟩, nofun⟩
  · rw [hl, cutTrace_configure_fails ha]
    exact ⟨rfl, nofun, fun _ => rfl⟩

/-! ## Waveforms -/

/-- Two runs of one level in front of a waveform are one run. -/
theorem addRun_addRun (v : Bool) (d e : Nat) (w : List Run) : addRun ⟨v, d⟩ (addRun ⟨v, e⟩ w) = addRun ⟨v, d + e⟩ w := by
  cases w with
  | nil => simp [addRun]
  | cons q w => by_cases h : v = q.level <;> simp [addRun, h, Nat.add_assoc]

/-- A wait at the level of the run in front of it lengthens that run, also when it takes no time. -/
theorem addRun_waveFrom_wait (v : Bool) (d e : Nat) (l : List Event) :
    addRun ⟨v, d⟩ (waveFrom v (.wait e :: l)) = addRun ⟨v, d + e⟩ (waveFrom v l) := by
  rw [waveFrom]
  split
  · exact addRun_addRun v d e _
  · rw [show d + e = d by omega]

/-- A waveform that does not go on low. -/
def StartsHigh (w : List Run) : Prop := ∀ r ∈ w.head?, r.level = true

theorem addRun_low {w : List Run} (h : StartsHigh w) (d : Nat) : addRun ⟨false, d⟩ w = ⟨false, d⟩ :: w := by
  cases w with
  | nil => rfl
  | cons q w =>
    have hq : q.level = true := h q rfl
    simp [addRun, hq]

/-- A high run is not merged with the low run after it. -/
theorem addRun_high_low (d e : Nat) (w : List Run) : addRun ⟨true, d⟩ (addRun ⟨false, e⟩ w) = ⟨true, d⟩ :: addRun ⟨false, e⟩ w := by
  cases w with
  | nil => rfl
  | cons q w => cases h : q.level <;> simp [addRun, h]

section
variable {m : Memory} (hoff : 1 ≤ m.shortOff)
include hoff

/-- A pulse is a high run, and then the line is low for its gap at least. -/
theorem waveFrom_pulseTrace {d : Nat} (hd : 1 ≤ d) (l : List Event) :
    waveFrom false (pulseTrace m d ++ l) = ⟨true, d⟩ :: addRun ⟨false, m.shortOff⟩ (waveFrom false l) := by
  rw [← addRun_high_low]
  simp [pulseTrace, waveFrom, levelAfter, Nat.lt_of_succ_le hd, Nat.lt_of_succ_le hoff]

/-- Pulses in front of something that goes on high, run by run. -/
theorem waveFrom_pulses {d : Nat} (hd : 1 ≤ d) (k : Nat) {l : List Event} (hl : StartsHigh (waveFrom false l)) :
    waveFrom false (repeatTrace k (pulseTrace m d) ++ l) =
        (List.replicate k [Run.mk true d, ⟨false, m.shortOff⟩]).flatten ++ waveFrom false l ∧
      StartsHigh (waveFrom false (repeatTrace k (pulseTrace m d) ++ l)) := by
  induction k with
  | zero => exact ⟨rfl, hl⟩
  | succ k ih =>
    obtain ⟨hw, hs⟩ := ih
    rw [repeatTrace_succ, List.append_assoc, waveFrom_pulseTrace hoff hd, addRun_low hs, hw]
    exact ⟨rfl, fun r hr => by cases hr; rfl⟩

/-- Pulses, a last pulse and a wait: the common shape of a header and a group. The wait makes the last low run longer. -/
theorem waveFrom_pulses_wait {d e : Nat} (hd : 1 ≤ d) (he : 1 ≤ e) (k g : Nat) {l : List Event}
    (hl : StartsHigh (waveFrom false l)) :
    waveFrom false (repeatTrace k (pulseTrace m d) ++ pulseTrace m e ++ [.wait g] ++ l) =
        (List.replicate k [Run.mk true d, ⟨false, m.shortOff⟩]).flatten ++ [⟨true, e⟩, ⟨false, m.shortOff + g⟩] ++
          waveFrom false l ∧
      StartsHigh (waveFrom false (repeatTrace k (pulseTrace m d) ++ pulseTrace m e ++ [.wait g] ++ l)) := by
  have hlast : waveFrom false (pulseTrace m e ++ ([.wait g] ++ l)) =
      ⟨true, e⟩ :: ⟨false, m.shortOff + g⟩ :: waveFrom false l := by
    rw [waveFrom_pulseTrace hoff he, List.singleton_append, addRun_waveFrom_wait, addRun_low hl]
  have hhigh : StartsHigh (waveFrom false (pulseTrace m e ++ ([.wait g] ++ l))) := by
    rw [hlast]
    exact fun r hr => by cases hr; rfl
  obtain ⟨hw, hs⟩ := waveFrom_pulses hoff hd k hhigh
  rw [List.append_assoc, List.append_assoc]
  exact ⟨by rw [hw, hlast]; simp, hs⟩

/-- The waveform of a body, group by group. -/
theorem waveFrom_bodyTrace (hlong : 1 ≤ m.longOn) (hshort : 1 ≤ m.shortOn) (c : List Nat) :
    waveFrom false (bodyTrace m c) = (c.map fun n =>
        (List.replicate n [Run.mk true m.longOn, ⟨false, m.shortOff⟩]).flatten ++
        [⟨true, m.shortOn⟩, ⟨false, m.shortOff + m.longOff⟩]).flatten ∧
      StartsHigh (waveFrom false (bodyTrace m c)) := by
  induction c with
  | nil => exact ⟨rfl, nofun⟩
  | cons n c ih =>
    obtain ⟨hw, hs⟩ := ih
    obtain ⟨hw', hs'⟩ := waveFrom_pulses_wait hoff hlong hshort n m.longOff hs
    rw [bodyTrace_cons]
    exact ⟨hw'.trans (by rw [hw]; rfl), hs'⟩

end

/-- The last of the pulses of a header. -/
theorem repeatTrace_pred {k : Nat} (hk : 1 ≤ k) (l : List Event) : repeatTrace k l = repeatTrace (k - 1) l ++ l := by
  obtain ⟨k, rfl⟩ := Nat.exists_eq_add_of_le' hk
  rw [Nat.add_sub_cancel, repeatTrace, List.replicate_succ']
  simp [repeatTrace]

/-- Settles O56: header and groups have one shape, and the two low waits make up the header wait. -/
theorem unitWaveform : Obligations.UnitWaveform := by
  intro s c hp
  obtain ⟨⟨hshort, hlong, hoff, -⟩, -, hsync, -⟩ := State.paramsOk_iff.mp hp
  obtain ⟨hbody, hhigh⟩ := waveFrom_bodyTrace hoff hlong hshort c
  obtain ⟨hw, -⟩ := waveFrom_pulses_wait hoff hshort hshort (s.params.syncPulses - 1) s.mem.hdrRes hhigh
  have hres : s.mem.shortOff + s.mem.hdrRes = s.mem.headerWait := (Nat.add_comm _ _).trans (State.hdrRes_add_shortOff hp)
  rw [wave, unitTrace, headerTrace, repeatTrace_pred hsync, hw, hbody, hres]

end Sys2Proof.Machine
end

section
/-! SUPPORT. Runs of a transmission (42_transmitter.md R118 to R121, R128): the events a state still has to send, what one step does with them, and from
both the whole run. -/
namespace Sys2Proof.Machine

/-! ## Answers and inputs along a run -/

theorem State.failsAt_zero_ok {s : State} (ha : s.nextAnswer = .ok) : s.failsAt 0 = false := by
  cases h : s.answers <;> simp_all [State.failsAt, State.nextAnswer]

theorem State.failsAt_zero_fail {s : State} (ha : s.nextAnswer = .fail) : s.failsAt 0 = true := by
  cases h : s.answers <;> simp_all [State.failsAt, State.nextAnswer]

theorem State.nextAnswer_of_failsAt {s : State} (h : s.failsAt 0 = false) : s.nextAnswer = .ok := by
  rcases s.nextAnswer_cases with ha | ha
  · exact ha
  · exact absurd ((State.failsAt_zero_fail ha).symm.trans h) nofun

/-- The answers to come depend on those listed and the number of those drawn alone. -/
theorem State.failsAt_congr {s t : State} (ha : t.answers = s.answers) (hd : t.draws = s.draws) : t.failsAt = s.failsAt := by
  funext j
  rw [State.failsAt, State.failsAt, ha, hd]

/-- After a request the answers to the later ones move up by one. -/
theorem State.failsAt_request (s : State) (op : DrvOp) : (s.request op).failsAt = fun j => s.failsAt (j + 1) := by
  funext j
  cases h : s.answers <;> simp [State.failsAt, h, Nat.add_assoc, Nat.add_comm 1]

/-- No step puts a reset into the inputs ahead. -/
theorem StepTo.noReset {s t : State} (hn : NoReset s) (h : StepTo s t) : NoReset t := by
  cases h with
  | hold | start | resetIdle => exact fun x hx => hn x (List.mem_of_mem_tail hx)
  | reset | unknown | invalid | valid | highOver | syncMore | syncLast | longOver | shortOver | groupMore | groupLast
  | repeatGap | symbol | lastRepeat | nextRepeat => exact fun x hx => hn x (List.mem_of_mem_drop hx)
  | configureEmpty | configure | configureFails | high | bodyHigh | highFails | low | bodyLow | lowFails | release => exact hn

/-! ## Runs -/

theorem core_run_of_step {s t : State} (e : step s = .next t) (n : Nat) :
    Sys2Proof.core.run (n + 1) s = Sys2Proof.core.run n t :=
  (core_run_succ n s).trans (congrArg (andThen · (Sys2Proof.core.run n)) e)

/-- `n` steps lead from `s` to `t`, none of them from an idle block. -/
structure BusyRun (n : Nat) (s t : State) : Prop where
  run : Sys2Proof.core.run n s = .next t
  busy : ∀ k, k < n → ∃ u, Sys2Proof.core.run k s = .next u ∧ u.phase ≠ .idle

theorem BusyRun.cons {n : Nat} {s t u : State} (h : s.phase ≠ .idle) (e : step s = .next t) (hr : BusyRun n t u) :
    BusyRun (n + 1) s u := by
  refine ⟨(core_run_of_step e n).trans hr.run, fun k hk => ?_⟩
  cases k with
  | zero => exact ⟨s, rfl, h⟩
  | succ k =>
    obtain ⟨v, hv, hb⟩ := hr.busy k (Nat.lt_of_succ_lt_succ hk)
    exact ⟨v, (core_run_of_step e k).trans hv, hb⟩

/-- The state `t` after the event `e`: the event is added to the trace and its time has passed. -/
structure Logs (s : State) (e : Event) (t : State) : Prop where
  trace : t.trace = s.trace ++ [e]
  edge : t.edge = s.edge + e.ticks

/-- A run that performs the events `l`, one a step. -/
inductive Performs : State → List Event → State → Prop where
  | nil (s : State) : Performs s [] s
  | cons {s t u : State} {e : Event} {l : List Event} (h : s.phase ≠ .idle) (hstep : step s = .next t)
      (hlog : Logs s e t) (hr : Performs t l u) : Performs s (e :: l) u

theorem Performs.append {l l' : List Event} {s t u : State} (h : Performs s l t) (h' : Performs t l' u) :
    Performs s (l ++ l') u := by
  induction h with
  | nil => exact h'
  | cons h hstep hlog _ ih => exact .cons h hstep hlog (ih h')

theorem Performs.busyRun {l : List Event} {s t : State} (h : Performs s l t) : BusyRun l.length s t := by
  induction h with
  | nil => exact ⟨rfl, nofun⟩
  | cons h hstep _ _ ih => exact ih.cons h hstep

theorem Performs.trace {l : List Event} {s t : State} (h : Performs s l t) : t.trace = s.trace ++ l := by
  induction h with
  | nil => exact (List.append_nil _).symm
  | cons _ _ hlog _ ih => rw [ih, hlog.trace, List.append_assoc, List.singleton_append]

theorem Performs.edge {l : List Event} {s t : State} (h : Performs s l t) : t.edge = s.edge + traceTicks l := by
  induction h with
  | nil => rfl
  | cons _ _ hlog _ ih => rw [ih, hlog.edge, traceTicks, traceTicks, List.map_cons, List.sum_cons, Nat.add_assoc]

/-! ## The events still to be sent -/

/-- The symbols of the selected command (20_memory.md R52). -/
def State.command (s : State) : List Nat := s.mem.symbols s.base_r s.len_r

/-- From symbol `i` of the repeat in progress on, to the release. -/
def State.bodyLeft (s : State) (i : Nat) : List Event :=
  bodyTrace s.mem (s.command.drop i) ++
    (repeatTrace (s.rep_left - 1) (repGapTrace s.mem ++ unitTrace s.mem s.params.syncPulses s.command) ++ [.release])

/-- From the header pulse in progress on. -/
def State.headerLeft (s : State) : List Event :=
  pulseTrace s.mem s.mem.shortOn ++ (headerTrace s.mem (s.sync_left - 1) ++ s.bodyLeft 0)

/-- From the body pulse in progress on: a short one is the last of its group. -/
def State.groupLeft (s : State) : List Event :=
  pulseTrace s.mem (if s.long_left = 0 then s.mem.shortOn else s.mem.longOn) ++
    ((if s.long_left = 0 then [.wait s.mem.longOff] else groupTrace s.mem (s.long_left - 1)) ++ s.bodyLeft (s.sym_idx + 1))

/-- The events a transmission still has to send when no request fails (42_transmitter.md R111 to R116). -/
def State.toSend (s : State) : List Event :=
  match s.phase with
  | .config => transmitOk s.mem s.params.syncPulses s.command s.rep_left
  | .hdrHi => s.headerLeft
  | .hdrHiW => s.headerLeft.drop 1
  | .hdrLo => s.headerLeft.drop 2
  | .hdrLoW => s.headerLeft.drop 3
  | .hdrRes => .wait s.mem.hdrRes :: s.bodyLeft 0
  | .bodyHi => s.groupLeft
  | .bodyHiW => s.groupLeft.drop 1
  | .bodyLo => s.groupLeft.drop 2
  | .bodyLoW => s.groupLeft.drop 3
  | .grpGap => .wait s.mem.longOff :: s.bodyLeft (s.sym_idx + 1)
  | .repGap => .wait s.mem.repRes :: (headerTrace s.mem s.params.syncPulses ++ s.bodyLeft 0)
  | .release => [.release]
  | .idle | .validate | .reserved => []

theorem State.toSend_of_phase {s : State} {p : Phase} (h : s.phase = p) : s.toSend = State.toSend { s with phase := p } := by
  subst h
  rfl

theorem headerTrace_pulse (m : Memory) {k : Nat} (hk : k ≠ 0) :
    headerTrace m k = pulseTrace m m.shortOn ++ headerTrace m (k - 1) := by
  obtain ⟨k, rfl⟩ := Nat.exists_eq_succ_of_ne_zero hk
  rw [headerTrace, repeatTrace_succ, List.append_assoc]
  rfl

theorem groupTrace_pulse (m : Memory) {n : Nat} (hn : n ≠ 0) :
    groupTrace m n = pulseTrace m m.longOn ++ groupTrace m (n - 1) := by
  obtain ⟨n, rfl⟩ := Nat.exists_eq_succ_of_ne_zero hn
  simp [groupTrace, repeatTrace_succ]

/-- With a header pulse in progress the header is to be sent from it on. -/
theorem State.headerLeft_eq {s : State} (h : s.sync_left ≠ 0) :
    s.headerLeft = headerTrace s.mem s.sync_left ++ s.bodyLeft 0 := by
  rw [State.headerLeft, headerTrace_pulse s.mem h, List.append_assoc]

theorem State.groupLeft_short {s : State} (h : s.long_left = 0) :
    s.groupLeft = pulseTrace s.mem s.mem.shortOn ++ (.wait s.mem.longOff :: s.bodyLeft (s.sym_idx + 1)) := by
  simp [State.groupLeft, h]

theorem State.groupLeft_long {s : State} (h : s.long_left ≠ 0) :
    s.groupLeft = pulseTrace s.mem s.mem.longOn ++ (groupTrace s.mem (s.long_left - 1) ++ s.bodyLeft (s.sym_idx + 1)) := by
  simp [State.groupLeft, h]

/-- At the beginning of a pulse of the body its group is to be sent. -/
theorem State.groupLeft_eq (s : State) : s.groupLeft = groupTrace s.mem s.long_left ++ s.bodyLeft (s.sym_idx + 1) := by
  by_cases h : s.long_left = 0
  · rw [State.groupLeft_short h, h]
    rfl
  · rw [State.groupLeft_long h, groupTrace_pulse s.mem h, List.append_assoc]

/-- The next symbol of the body. -/
theorem State.bodyLeft_symbol {s : State} {i : Nat} (h : i < s.len_r) :
    s.bodyLeft i = groupTrace s.mem (s.mem.readSym (s.base_r + i)) ++ s.bodyLeft (i + 1) := by
  have hdrop : s.command.drop i = s.mem.readSym (s.base_r + i) :: s.command.drop (i + 1) := by
    have hlen : i < s.command.length := (Memory.length_symbols _ _ _).symm ▸ h
    rw [List.drop_eq_getElem_cons hlen]
    exact congrArg (· :: _) (Option.some.inj ((List.getElem?_eq_getElem hlen).symm.trans
      (Memory.getElem?_symbols s.mem _ _ i h)))
  rw [State.bodyLeft, hdrop, bodyTrace_cons, List.append_assoc]
  rfl

theorem State.drop_command_of_le {s : State} {i : Nat} (h : s.len_r ≤ i) : s.command.drop i = [] :=
  List.drop_eq_nil_of_le ((Memory.length_symbols _ _ _).trans_le h)

/-- At the end of the body of the last repeat. -/
theorem State.bodyLeft_last {s : State} {i : Nat} (h : s.len_r ≤ i) (hr : s.rep_left = 1) : s.bodyLeft i = [.release] := by
  rw [State.bodyLeft, State.drop_command_of_le h, hr]
  rfl

/-- At the end of the body of any other repeat. -/
theorem State.bodyLeft_next {s : State} {i : Nat} (h : s.len_r ≤ i) (hr : 1 < s.rep_left) :
    s.bodyLeft i = .wait s.mem.repRes :: (headerTrace s.mem s.params.syncPulses ++
      State.bodyLeft { s with rep_left := s.rep_left - 1 } 0) := by
  obtain ⟨r, hr⟩ : ∃ r, s.rep_left = r + 2 := ⟨s.rep_left - 2, by omega⟩
  rw [State.bodyLeft, State.drop_command_of_le h, hr]
  simp only [State.bodyLeft, Nat.add_sub_cancel, show r + 2 - 1 = r + 1 from rfl, repeatTrace_succ, unitTrace, repGapTrace]
  simp [bodyTrace, State.command]

/-- A transmission of at least one repeat begins with its header. -/
theorem State.transmitOk_eq {s : State} (h : s.rep_left ≠ 0) :
    transmitOk s.mem s.params.syncPulses s.command s.rep_left =
      .configure :: (headerTrace s.mem s.params.syncPulses ++ s.bodyLeft 0) := by
  obtain ⟨r, hr⟩ := Nat.exists_eq_succ_of_ne_zero h
  simp [transmitOk, frameTrace, unitTrace, State.bodyLeft, hr]

theorem State.dispatchAt.toSend {s : State} {d : Dsel} {idx : Nat} (h : s.dispatchAt d idx) :
    s.toSend = .wait (s.mem.duration d) :: s.bodyLeft idx := by
  rcases h with ⟨h, rfl, rfl⟩ | ⟨h, rfl, rfl, -⟩ <;> exact State.toSend_of_phase h

/-! ## One step of a transmission -/

/-- The phases of a transmission whose command is valid: all but `IDLE`, `VALIDATE` and the reserved one. -/
def Phase.sending (p : Phase) : Bool := decide (p = .config) || p.acquired

theorem Phase.sending_ne_idle {p : Phase} (h : p.sending = true) : p ≠ .idle := by
  rintro rfl
  cases h

/-- What a step of a transmission does with the events still to be sent: it performs the first of them, or the first is a request that fails
(42_transmitter.md R120). -/
inductive SendStep (s t : State) : Prop where
  | waited (d : Nat) (hs : s.toSend = .wait d :: t.toSend) (hlog : Logs s (.wait d) t) (ht : t.phase.sending = true)
      (herr : t.err = s.err) (hf : t.failsAt = s.failsAt)
  | granted (op : DrvOp) (ha : s.failsAt 0 = false) (hs : s.toSend = .req op false :: t.toSend)
      (hlog : Logs s (.req op false) t) (ht : t.phase.sending = true) (herr : t.err = s.err)
      (hf : t.failsAt = fun j => s.failsAt (j + 1))
  | notAcquired (l : List Event) (ha : s.failsAt 0 = true) (hs : s.toSend = .configure :: l)
      (hlog : Logs s (.req .configure true) t) (ht : t.phase = .idle) (hdone : t.done = true) (herr : t.err = 3)
  | faulted (op : DrvOp) (hc : op ≠ .configure) (hr : op ≠ .release) (l : List Event) (ha : s.failsAt 0 = true)
      (hs : s.toSend = .req op false :: l) (hlog : Logs s (.req op true) t) (ht : t.phase = .release) (herr : t.err = 2)
  | released (hs : s.toSend = [.release]) (hlog : Logs s .release t) (ht : t.phase = .idle) (hdone : t.done = true)
      (herr : t.err = s.err)

theorem SendStep.toSend_ne_nil {s t : State} (h : SendStep s t) : s.toSend ≠ [] := by
  cases h with
  | waited _ hs | granted _ _ hs | notAcquired _ _ hs | faulted _ _ _ _ _ hs | released hs =>
    rw [hs]
    nofun

/-- Row by row of the step table: its event is the next to be sent, and its writes leave the rest. -/
theorem StepTo.sendStep {s t : State} (hp : s.paramsOk = true) (ht : s.tmr = 0) (hn : NoReset s)
    (hs : s.phase.sending = true) (h : StepTo s t) : SendStep s t := by
  have hsync : s.params.syncPulses ≠ 0 := by
    obtain ⟨-, -, hsync, -⟩ := State.paramsOk_iff.mp hp
    exact Nat.ne_of_gt hsync
  have hf (op : DrvOp) : (s.request op).failsAt = fun j => s.failsAt (j + 1) := s.failsAt_request op
  have hw (d : Dsel) : Logs s (.wait (s.mem.duration d)) (s.waited d) := by
    rw [State.waited_eq_afterWait ht]
    exact ⟨rfl, rfl⟩
  cases h with
  | hold h | start _ _ _ _ h | resetIdle h | unknown h | invalid h | valid h => rw [h] at hs; cases hs
  | reset k w _ _ hr => exact absurd hn (not_noReset hr)
  | configureEmpty h ha hl =>
    refine .granted .configure (State.failsAt_zero_ok ha) ?_ ⟨rfl, rfl⟩ rfl rfl (hf .configure)
    exact (State.toSend_of_phase h).trans (congrArg (transmitOk s.mem s.params.syncPulses s.command) hl)
  | configure h ha hl =>
    refine .granted .configure (State.failsAt_zero_ok ha) ?_ ⟨rfl, rfl⟩ rfl rfl (hf .configure)
    have hheader := State.headerLeft_eq (s := s.hdrStart) hsync
    exact (State.toSend_of_phase h).trans ((State.transmitOk_eq hl).trans (congrArg _ hheader.symm))
  | configureFails h ha =>
    exact .notAcquired _ (State.failsAt_zero_fail ha) (State.toSend_of_phase h) ⟨rfl, rfl⟩ rfl rfl rfl
  | high h ha | bodyHigh h ha =>
    exact .granted .setHigh (State.failsAt_zero_ok ha) (State.toSend_of_phase h) ⟨rfl, rfl⟩ rfl rfl (hf .setHigh)
  | low h ha | bodyLow h ha =>
    exact .granted .setLow (State.failsAt_zero_ok ha) (State.toSend_of_phase h) ⟨rfl, rfl⟩ rfl rfl (hf .setLow)
  | highFails h ha =>
    refine h.elim (fun h => ?_) (fun h => ?_) <;>
      exact .faulted .setHigh nofun nofun _ (State.failsAt_zero_fail ha) (State.toSend_of_phase h) ⟨rfl, rfl⟩ rfl rfl
  | lowFails h ha =>
    refine h.elim (fun h => ?_) (fun h => ?_) <;>
      exact .faulted .setLow nofun nofun _ (State.failsAt_zero_fail ha) (State.toSend_of_phase h) ⟨rfl, rfl⟩ rfl rfl
  | release h => exact .released (State.toSend_of_phase h) ⟨rfl, rfl⟩ rfl rfl rfl
  | highOver h => exact .waited _ (State.toSend_of_phase h) ⟨rfl, (hw .son).edge⟩ rfl rfl rfl
  | syncMore h h1 =>
    refine .waited _ ?_ ⟨rfl, (hw .soff).edge⟩ rfl rfl rfl
    have hheader := State.headerLeft_eq (s := { s with sync_left := s.sync_left - 1 }) (Nat.sub_ne_zero_of_lt h1)
    exact (State.toSend_of_phase h).trans (congrArg (_ :: ·) hheader.symm)
  | syncLast h h0 =>
    refine .waited _ ?_ ⟨rfl, (hw .soff).edge⟩ rfl rfl rfl
    exact (State.toSend_of_phase h).trans
      (congrArg (fun k => _ :: (headerTrace s.mem (k - 1) ++ s.bodyLeft 0)) h0)
  | longOver h hl =>
    have hdrop : s.groupLeft.drop 1 = .wait (s.mem.duration .lon) :: s.groupLeft.drop 2 := by
      rw [State.groupLeft_long hl]
      rfl
    exact .waited _ ((State.toSend_of_phase h).trans hdrop) ⟨rfl, (hw .lon).edge⟩ rfl rfl rfl
  | shortOver h hl =>
    have hdrop : s.groupLeft.drop 1 = .wait (s.mem.duration .son) :: s.groupLeft.drop 2 := by
      rw [State.groupLeft_short hl]
      rfl
    exact .waited _ ((State.toSend_of_phase h).trans hdrop) ⟨rfl, (hw .son).edge⟩ rfl rfl rfl
  | groupMore h hl =>
    refine .waited _ ?_ ⟨rfl, (hw .soff).edge⟩ rfl rfl rfl
    have hgroup := State.groupLeft_eq { s with long_left := s.long_left - 1 }
    exact (State.toSend_of_phase h).trans ((congrArg (List.drop 3) (State.groupLeft_long hl)).trans
      (congrArg (_ :: ·) hgroup.symm))
  | groupLast h hl =>
    exact .waited _ ((State.toSend_of_phase h).trans (congrArg (List.drop 3) (State.groupLeft_short hl)))
      ⟨rfl, (hw .soff).edge⟩ rfl rfl rfl
  | repeatGap h =>
    refine .waited _ ?_ ⟨rfl, (hw .rres).edge⟩ rfl rfl rfl
    have hheader := State.headerLeft_eq (s := s.hdrStart) hsync
    exact (State.toSend_of_phase h).trans (congrArg (_ :: ·) hheader.symm)
  | symbol d idx h hi =>
    refine .waited _ ?_ ⟨rfl, (hw d).edge⟩ rfl rfl rfl
    have hgroup := State.groupLeft_eq { s with sym_idx := idx, long_left := s.mem.readSym (s.base_r + idx) }
    exact h.toSend.trans (congrArg (_ :: ·) ((State.bodyLeft_symbol hi).trans hgroup.symm))
  | lastRepeat d idx h hi hr =>
    exact .waited _ (h.toSend.trans (congrArg (_ :: ·) (State.bodyLeft_last hi hr))) ⟨rfl, (hw d).edge⟩ rfl rfl rfl
  | nextRepeat d idx h hi hr =>
    exact .waited _ (h.toSend.trans (congrArg (_ :: ·) (State.bodyLeft_next hi hr))) ⟨rfl, (hw d).edge⟩ rfl rfl rfl

/-! ## The whole run -/

/-- The first answers that the driver will give are those of `a`, `true` being `fail`. -/
def State.Answers (s : State) (n : Nat) (a : List Bool) : Prop := ∀ j, j < n → a.getD j false = s.failsAt j

theorem State.Answers.head {s : State} {n : Nat} {a : List Bool} (h : s.Answers (n + 1) a) :
    a.headD false = s.failsAt 0 := by
  rw [← h 0 n.succ_pos]
  cases a <;> rfl

theorem State.Answers.tail {s t : State} {n : Nat} {a : List Bool} (h : s.Answers (n + 1) a)
    (hf : t.failsAt = fun j => s.failsAt (j + 1)) : t.Answers n a.tail := by
  intro j hj
  have hshift : a.tail.getD j false = a.getD (j + 1) false := by cases a <;> simp
  rw [hshift, h (j + 1) (Nat.succ_lt_succ hj), hf]

theorem State.Answers.mono {s t : State} {n m : Nat} {a : List Bool} (h : s.Answers n a) (hm : m ≤ n)
    (hf : t.failsAt = s.failsAt) : t.Answers m a :=
  fun j hj => (h j (Nat.lt_of_lt_of_le hj hm)).trans (by rw [hf])

/-- The end of a transmission: the block is idle and tells its host, with the code `e` on `err`. -/
structure Ended (e : BitVec 2) (t : State) : Prop where
  phase : t.phase = .idle
  done : t.done = true
  err : t.err = e

/-- A step of a transmission keeps what the next one needs. -/
theorem sendStep_of_invariant {s : State} (hi : Invariant s) (ht : s.tmr = 0) (hn : NoReset s)
    (hs : s.phase.sending = true) :
    ∃ t, step s = .next t ∧ SendStep s t ∧ Invariant t ∧ t.tmr = 0 ∧ NoReset t := by
  obtain ⟨t, e⟩ := hi.exists_step
  have hto := step_to e
  have hinv := hto.invariant hi
  obtain ⟨hp, -, -, -, htimer, -⟩ := hi
  exact ⟨t, e, hto.sendStep hp ht hn hs, hinv, hto.tmr_eq_zero htimer, hto.noReset hn⟩

/-- The release ends the transmission and keeps the error, whatever its answer (60_exceptions.md R167). -/
theorem release_performs {s : State} (hp : s.paramsOk = true) (h : s.phase = .release) :
    ∃ t, Performs s [.release] t ∧ Ended s.err t :=
  ⟨_, .cons (by rw [h]; nofun) (step_release hp h) ⟨rfl, rfl⟩ (.nil _), rfl, rfl, rfl⟩

/-- A transmission performs the events it has to send, cut off at the first request that fails (42_transmitter.md R120), and ends. -/
theorem sending_performs {l : List Event} {s : State} {a : List Bool} (hl : s.toSend = l) (hi : Invariant s) (ht : s.tmr = 0)
    (hn : NoReset s) (hs : s.phase.sending = true) (herr : s.err = 0) (ha : s.Answers l.length a) :
    ∃ t, Performs s (cutTrace l a).1 t ∧ Ended (errCode (cutTrace l a).2) t := by
  induction l generalizing s a with
  | nil =>
    obtain ⟨t, -, h, -⟩ := sendStep_of_invariant hi ht hn hs
    exact absurd hl h.toSend_ne_nil
  | cons e l ih =>
    obtain ⟨t, hstep, h, hi', ht', hn'⟩ := sendStep_of_invariant hi ht hn hs
    have hbusy := Phase.sending_ne_idle hs
    cases h with
    | waited d hsend hlog hs' herr' hf =>
      obtain ⟨rfl, rfl⟩ := List.cons.inj (hl.symm.trans hsend)
      obtain ⟨u, hrun, hend⟩ := ih rfl hi' ht' hn' hs' (herr'.trans herr) (ha.mono (Nat.le_succ _) hf)
      exact ⟨u, .cons hbusy hstep hlog hrun, hend⟩
    | granted op ha0 hsend hlog hs' herr' hf =>
      obtain ⟨rfl, rfl⟩ := List.cons.inj (hl.symm.trans hsend)
      obtain ⟨u, hrun, hend⟩ := ih rfl hi' ht' hn' hs' (herr'.trans herr) (ha.tail hf)
      rw [cutTrace_kept (.inl (ha.head.trans ha0))]
      exact ⟨u, .cons hbusy hstep hlog hrun, hend⟩
    | notAcquired l' ha0 hsend hlog hidle hdone herr' =>
      obtain ⟨rfl, rfl⟩ := List.cons.inj (hl.symm.trans hsend)
      rw [cutTrace_configure_fails (ha.head.trans ha0)]
      exact ⟨t, .cons hbusy hstep hlog (.nil t), hidle, hdone, herr'⟩
    | faulted op hc hr l' ha0 hsend hlog hrel herr' =>
      obtain ⟨rfl, rfl⟩ := List.cons.inj (hl.symm.trans hsend)
      rw [cutTrace_fails hc hr (ha.head.trans ha0)]
      obtain ⟨hp', -⟩ := hi'
      obtain ⟨u, hrun, hend⟩ := release_performs hp' hrel
      exact ⟨u, .cons hbusy hstep hlog hrun, hend.phase, hend.done, hend.err.trans herr'⟩
    | released hsend hlog hidle hdone herr' =>
      obtain ⟨rfl, rfl⟩ := List.cons.inj (hl.symm.trans hsend)
      rw [cutTrace_kept (.inr rfl)]
      exact ⟨t, .cons hbusy hstep hlog (.nil t), hidle, hdone, herr'.trans herr⟩

end Sys2Proof.Machine
end

section
/-! SUPPORT. Whole transmissions (42_transmitter.md R120, R121, R126, R128): the selected command in the catalog, the outcome of a transmission, its time and
its number of steps; the steps that send a group (R114; 41_encoder.md R108). -/
namespace Sys2Proof.Machine

/-! ## The catalog -/

/-- The integers of symbol words are naturals exactly when no word is negative, and then they are the words. -/
theorem map_symInt_eq_map_ofNat {W : Widths} {l c : List Nat} (hW : W.ok = true) (hl : ∀ w ∈ l, w < 2 ^ W.symW) :
    l.map (symInt W) = c.map Int.ofNat ↔ firstNegative W l = none ∧ l = c := by
  have hword {w : Nat} (hw : w ∈ l) (h : ¬ symInt W w < 0) : symInt W w = Int.ofNat w := by
    rcases symInt_cases hW (hl w hw) with ⟨-, -, hneg⟩ | ⟨-, -, e⟩
    · exact absurd hneg h
    · exact e
  rw [firstNegative_eq_none]
  constructor
  · intro h
    have hnn : ∀ w ∈ l, ¬ symInt W w < 0 := by
      intro w hw
      have hmem : symInt W w ∈ c.map Int.ofNat := h ▸ List.mem_map_of_mem hw
      obtain ⟨n, -, e⟩ := List.mem_map.mp hmem
      rw [← e]
      exact Int.not_lt.mpr (Int.natCast_nonneg n)
    refine ⟨hnn, List.map_injective_iff.mpr Int.ofNat_injective ?_⟩
    rw [← h]
    exact List.map_congr_left fun w hw => (hword hw (hnn w hw)).symm
  · rintro ⟨hnn, rfl⟩
    exact List.map_congr_left fun w hw => hword hw (hnn w hw)

/-- The catalog has a sequence of naturals for the selected identifier exactly when there is such an entry and its command is valid
(20_memory.md R55; 41_encoder.md R109). -/
theorem State.catalog_eq_some_iff {s : State} (hp : s.paramsOk = true) {c : List Nat} :
    s.catalog s.cmd_r = some (c.map Int.ofNat) ↔
      s.cmd_r < s.params.nCmds ∧ CommandValid s.lookedUp ∧ s.lookedUp.command = c := by
  have hwords : ∀ w ∈ s.lookedUp.command, w < 2 ^ s.params.widths.symW := by
    intro w hw
    obtain ⟨i, -, rfl⟩ := Memory.mem_symbols.mp hw
    exact State.readSym_lt hp _
  have hmap := map_symInt_eq_map_ofNat (c := c) (State.widths_ok hp) hwords
  by_cases hc : s.cmd_r < s.params.nCmds
  · by_cases hfit : entryFits s.params.symDepth (s.dirEntry s.cmd_r) = true
    · have hcat : s.catalog s.cmd_r = some (s.lookedUp.command.map (symInt s.params.widths)) := by
        simp [State.catalog, hc, hfit, State.command, State.lookedUp]
      rw [hcat, Option.some.injEq, hmap]
      exact ⟨fun ⟨hneg, e⟩ => ⟨hc, ⟨hfit, hneg⟩, e⟩, fun ⟨_, ⟨_, hneg⟩, e⟩ => ⟨hneg, e⟩⟩
    · have hcat : s.catalog s.cmd_r = none := by simp [State.catalog, hc, hfit]
      rw [hcat]
      exact ⟨nofun, fun ⟨_, ⟨h, _⟩, _⟩ => absurd h hfit⟩
  · have hcat : s.catalog s.cmd_r = none := by simp [State.catalog, hc]
    rw [hcat]
    exact ⟨nofun, fun ⟨h, _⟩ => absurd h hc⟩

/-! ## Transmissions -/

/-- The trace and the error of a transmission of `c` under the answers to come (42_transmitter.md R120). -/
def State.outcome (s : State) (c : List Nat) : List Event × Option ErrKind :=
  let full := transmitOk s.mem s.params.syncPulses c s.rep_left
  cutTrace full ((List.range full.length).map s.failsAt)

theorem State.answers_range (s : State) (n : Nat) : s.Answers n ((List.range n).map s.failsAt) := by
  intro j hj
  simp [List.getD, hj]

/-- With no reset the step of the validation phase is the validation at the end of the set-up time. -/
theorem step_validate_settled {s : State} (hp : s.paramsOk = true) (hn : NoReset s) (h : s.phase = .validate) :
    step s = s.settled.validate := by
  rcases step_validate_cases hp h with ⟨-, e⟩ | ⟨k, w, -, -, hr, -⟩
  · exact e
  · exact absurd hn (not_noReset hr)

/-- No error is kept into a transmission (10_state.md R34e). -/
theorem FlagsInv.err_eq_zero {s : State} (hi : FlagsInv s) (hidle : s.phase ≠ .idle) (hrel : s.phase ≠ .release) :
    s.err = 0 := by
  obtain ⟨-, -, -, hdone, herr⟩ := hi
  by_contra h0
  rcases herr h0 with h | h
  · exact hidle (hdone h)
  · exact hrel h

/-- A valid command: after the validation step the block performs the outcome, and ends with its error. -/
theorem transmission_of_valid {s : State} {c : List Nat} (hi : Invariant s) (hn : NoReset s) (h : s.phase = .validate)
    (hc : s.catalog s.cmd_r = some (c.map Int.ofNat)) :
    ∃ t, BusyRun ((s.outcome c).1.length + 1) s t ∧ t.trace = s.trace ++ (s.outcome c).1 ∧
      t.edge = s.edge + s.setup_left + traceTicks (s.outcome c).1 ∧ Ended (errCode (s.outcome c).2) t := by
  have hinv := hi
  obtain ⟨hp, -, hflags, -, htimer, -⟩ := hi
  obtain ⟨hlt, hv, rfl⟩ := (State.catalog_eq_some_iff hp).mp hc
  have hstep : step s = .next { s.settled.lookedUp with phase := .config } :=
    (step_validate_settled hp hn h).trans (validate_of_valid (s := s.settled) ((State.paramsOk_congr rfl rfl).trans hp) hlt hv)
  have hto := step_to hstep
  have hbusy : s.phase ≠ .idle := by rw [h]; nofun
  have herr : s.err = 0 := hflags.err_eq_zero hbusy (by rw [h]; nofun)
  obtain ⟨t, hrun, hend⟩ := sending_performs rfl (hto.invariant hinv) (hto.tmr_eq_zero htimer) (hto.noReset hn) rfl herr
    (s.answers_range _)
  exact ⟨t, hrun.busyRun.cons hbusy hstep, hrun.trace, hrun.edge, hend⟩

/-- A command that is not valid takes `InvalidCommand` in its validation step (41_encoder.md R109). -/
theorem transmission_of_invalid {s : State} (hp : s.paramsOk = true) (hn : NoReset s) (h : s.phase = .validate)
    (hc : ∀ c : List Nat, s.catalog s.cmd_r ≠ some (c.map Int.ofNat)) :
    ∃ t, step s = .next t ∧ t.trace = s.trace ∧ Ended 1 t := by
  rw [step_validate_settled hp hn h]
  rcases validate_cases (s := s.settled) ((State.paramsOk_congr rfl rfl).trans hp) with
    ⟨-, e⟩ | ⟨hlt, u, rfl, ⟨-, e⟩ | ⟨hv, -⟩⟩
  · exact ⟨_, e, rfl, rfl, rfl, rfl⟩
  · exact ⟨_, e, rfl, rfl, rfl, rfl⟩
  · exact absurd ((State.catalog_eq_some_iff hp).mpr ⟨hlt, hv, rfl⟩) (hc _)

/-- An idle block drives nothing (10_state.md R34 a to c). -/
theorem Invariant.idle_outputs {s : State} (hi : Invariant s) (h : s.phase = .idle) :
    s.busy = false ∧ s.tx = false ∧ s.tx_oe = false := by
  obtain ⟨-, -, ⟨hbusy, hoe, htx, -⟩, -⟩ := hi
  rw [h] at hbusy hoe htx
  exact ⟨by simpa using hbusy, by simpa [Phase.high] using htx, by simpa [Phase.acquired] using hoe⟩

/-! ## The number of steps -/

/-- Cutting off does not make a trace that ends in its release longer: the release takes the place of what is cut off. -/
theorem length_cutTrace_le (l : List Event) (a : List Bool) : (cutTrace (l ++ [.release]) a).1.length ≤ l.length + 1 := by
  induction l generalizing a with
  | nil =>
    rw [List.nil_append, cutTrace_kept (.inr rfl)]
    exact Nat.le_refl _
  | cons e l ih =>
    cases e with
    | wait d => exact Nat.succ_le_succ (ih a)
    | req op f =>
      by_cases hr : a.headD false = false ∨ op = .release
      · rw [List.cons_append, cutTrace_kept hr]
        exact Nat.succ_le_succ (ih a.tail)
      · obtain ⟨ha, hop⟩ := not_or.mp hr
        have ha : a.headD false = true := by simpa using ha
        by_cases hc : op = .configure
        · subst hc
          rw [List.cons_append, cutTrace_configure_fails ha]
          exact Nat.succ_le_succ (Nat.zero_le _)
        · rw [List.cons_append, cutTrace_fails hc hop ha]
          exact Nat.succ_le_succ (Nat.succ_le_succ (Nat.zero_le _))

theorem length_groupTrace (m : Memory) (n : Nat) : (groupTrace m n).length = 4 * (n + 1) + 1 := by
  rw [additive_groupTrace (f := List.length) fun _ _ => List.length_append]
  simp only [pulseTrace, List.length_cons, List.length_nil]
  ring

theorem length_bodyTrace (m : Memory) (c : List Nat) : (bodyTrace m c).length = 4 * (c.length + c.sum) + c.length := by
  rw [additive_bodyTrace (f := List.length) fun _ _ => List.length_append]
  induction c with
  | nil => rfl
  | cons n c ih =>
    rw [List.map_cons, List.sum_cons, ih, length_groupTrace, List.length_cons, List.sum_cons]
    ring

theorem length_unitTrace (m : Memory) (k : Nat) (c : List Nat) :
    (unitTrace m k c).length = 4 * (k + (c.length + c.sum)) + c.length + 1 := by
  rw [unitTrace, List.length_append, additive_headerTrace (f := List.length) fun _ _ => List.length_append, length_bodyTrace]
  simp only [pulseTrace, List.length_cons, List.length_nil]
  ring

/-- A repeat and the gap before the next. -/
theorem length_frameTrace_le (m : Memory) (k : Nat) (c : List Nat) (r : Nat) :
    (frameTrace m k c r).length ≤ r * (4 * (k + (c.length + c.sum)) + c.length + 2) := by
  cases r with
  | zero => exact Nat.zero_le _
  | succ r =>
    rw [additive_frameTrace_succ (f := List.length) fun _ _ => List.length_append, length_unitTrace]
    simp only [repGapTrace, List.length_cons, List.length_nil]
    nlinarith

theorem State.length_outcome_le (s : State) (c : List Nat) : (s.outcome c).1.length ≤
    2 + s.rep_left * (4 * (s.params.syncPulses + (c.length + c.sum)) + c.length + 2) := by
  have hcut := length_cutTrace_le (.configure :: frameTrace s.mem s.params.syncPulses c s.rep_left)
    ((List.range (transmitOk s.mem s.params.syncPulses c s.rep_left).length).map s.failsAt)
  have hframe := length_frameTrace_le s.mem s.params.syncPulses c s.rep_left
  rw [List.length_cons] at hcut
  refine Nat.le_trans hcut ?_
  omega

/-- Settles O45: the validation step, and then one step for each event of the outcome. -/
theorem machineTraceIsTheFunctionalTrace : Obligations.MachineTraceIsTheFunctionalTrace := by
  intro s hi hn h
  have hp : s.paramsOk = true := And.left hi
  refine ⟨fun c hc => ?_, fun hc => ?_⟩
  · obtain ⟨t, hrun, htrace, -, hend⟩ := transmission_of_valid hi hn h hc
    obtain ⟨hbusy, htx, hoe⟩ := (core_run_keeps stepKeepsTheInvariant hi hrun.run).idle_outputs hend.phase
    have hlen := s.length_outcome_le c
    exact ⟨_, t, by omega, hrun.run, hend.phase, hrun.busy, htrace, hend.err, hend.done, hbusy, htx, hoe⟩
  · obtain ⟨t, e, htrace, hend⟩ := transmission_of_invalid hp hn h hc
    obtain ⟨hbusy, htx, hoe⟩ := (stepKeepsTheInvariant s t hi e).idle_outputs hend.phase
    exact ⟨t, e, hend.phase, htrace, hend.err, hend.done, hbusy, htx, hoe⟩

/-- Settles O46: the validation step takes the set-up ticks left, and each step after it the time of its event. -/
theorem transmissionTakesOnlyItsWaits : Obligations.TransmissionTakesOnlyItsWaits := by
  intro s c hi hn h hc
  obtain ⟨t, hrun, -, hedge, hend⟩ := transmission_of_valid hi hn h hc
  exact ⟨_, t, hrun.run, hend.phase, hrun.busy, hedge⟩

/-- The outcome of zero repeats: the pin is acquired and released, or it is not acquired (42_transmitter.md R126). -/
theorem State.outcome_of_zero {s : State} (hr : s.rep_left = 0) (c : List Nat) : s.outcome c =
    if s.failsAt 0 = true then ([.req .configure true], some .resourceUnavailable) else ([.configure, .release], none) := by
  rw [State.outcome, hr]
  cases ha : s.failsAt 0 <;> simp [transmitOk, frameTrace, cutTrace, List.range_succ, ha]

/-- Settles O47: the outcome of zero repeats on either answer, and of a command that is not valid. -/
theorem zeroRepeatsSendNothing : Obligations.ZeroRepeatsSendNothing := by
  intro s hi hn h hr
  have hp : s.paramsOk = true := And.left hi
  refine ⟨fun c hc => ⟨fun ha => ?_, fun ha => ?_⟩, fun hc => ?_⟩
  · obtain ⟨t, hrun, htrace, -, hend⟩ := transmission_of_valid hi hn h hc
    rw [State.outcome_of_zero hr, if_neg (by simp [ha])] at hrun htrace hend
    exact ⟨t, hrun.run, hend.phase, htrace, hend.done, hend.err⟩
  · obtain ⟨t, hrun, htrace, -, hend⟩ := transmission_of_valid hi hn h hc
    rw [State.outcome_of_zero hr, if_pos ha] at hrun htrace hend
    exact ⟨t, hrun.run, hend.phase, htrace, hend.done, hend.err⟩
  · obtain ⟨t, e, htrace, hend⟩ := transmission_of_invalid hp hn h hc
    exact ⟨t, core_run_of_step e 0, hend.phase, htrace, hend.done, hend.err⟩

/-! ## A group -/

/-- The wait of a pulse of the body: its last pulse is the short one (41_encoder.md R101). -/
def State.pulseSel (s : State) : Dsel := if s.long_left = 0 then .son else .lon

/-- What the pulses of a group keep, of which `k` made a request since: the symbol in progress and what a further pulse needs. -/
structure SameSymbol (k : Nat) (s t : State) : Prop where
  mem : t.mem = s.mem
  params : t.params = s.params
  sym_idx : t.sym_idx = s.sym_idx
  rep_left : t.rep_left = s.rep_left
  tmr : t.tmr = 0
  noReset : NoReset t
  failsAt : t.failsAt = fun j => s.failsAt (j + k)

theorem SameSymbol.paramsOk {k : Nat} {s t : State} (h : SameSymbol k s t) : t.paramsOk = s.paramsOk :=
  State.paramsOk_congr h.mem h.params

theorem SameSymbol.trans {k l : Nat} {s t u : State} (h : SameSymbol k s t) (h' : SameSymbol l t u) :
    SameSymbol (k + l) s u := by
  refine ⟨h'.mem.trans h.mem, h'.params.trans h.params, h'.sym_idx.trans h.sym_idx, h'.rep_left.trans h.rep_left, h'.tmr,
    h'.noReset, ?_⟩
  rw [h'.failsAt, h.failsAt]
  funext j
  exact congrArg s.failsAt (by omega)

/-- A request answered `ok` and then the whole wait `d` of the phase `q`, before the position advances from it. -/
def State.requestWaited (s : State) (op : DrvOp) (q : Phase) (d : Dsel) : State :=
  State.afterWait { s.granted op with phase := q } d

theorem State.requestWaited_long_left (s : State) (op : DrvOp) (q : Phase) (d : Dsel) :
    (s.requestWaited op q d).long_left = s.long_left := by
  simp [State.requestWaited]

/-- A request and its wait keep the symbol in progress, whatever the position update writes to `long_left` and the phase. -/
theorem sameSymbol_requestWaited {s : State} (hn : NoReset s) (op : DrvOp) (q : Phase) (d : Dsel) (n : Nat) (p : Phase) :
    SameSymbol 1 s { s.requestWaited op q d with long_left := n, phase := p } where
  mem := by simp [State.requestWaited]
  params := by simp [State.requestWaited]
  sym_idx := by simp [State.requestWaited]
  rep_left := by simp [State.requestWaited]
  tmr := rfl
  noReset := by
    intro x hx
    simp only [State.requestWaited, State.afterWait_hostIn, State.granted_hostIn] at hx
    exact hn x (List.mem_of_mem_drop hx)
  failsAt := (State.failsAt_congr (s := s.request op) (by simp [State.requestWaited]) (by simp [State.requestWaited])).trans
    (s.failsAt_request op)

/-- The two steps of a request answered `ok` and the wait after it. -/
theorem performs_request_wait {s t : State} {op : DrvOp} {q : Phase} {d : Dsel} (hp : s.paramsOk = true) (ht : s.tmr = 0)
    (hn : NoReset s) (hop : s.phase.drvOp = some op) (hne : op ≠ .release) (ha : s.failsAt 0 = false)
    (hreq : (s.granted op).advance = .next { s.granted op with phase := q })
    (hd : State.waitSel { s.granted op with phase := q } = some d) (hadv : (s.requestWaited op q d).advance = .next t)
    (htrace : t.trace = (s.requestWaited op q d).trace) (hedge : t.edge = (s.requestWaited op q d).edge) :
    Performs s [.req op false, .wait (s.mem.duration d)] t := by
  obtain ⟨-, hidle, -⟩ := State.drvOp_some hop
  obtain ⟨-, hidle', -⟩ := State.waitSel_some hd
  have hstep := (step_driver_ok hp hop hne (State.nextAnswer_of_failsAt ha)).trans hreq
  have hwait := (step_whole_wait (s := { s.granted op with phase := q })
    ((State.paramsOk_congr (s.granted_mem op) (s.granted_params op)).trans hp) ((s.granted_tmr op).trans ht)
    (fun x hx => hn x (s.granted_hostIn op ▸ hx)) hd).trans hadv
  refine .cons hidle hstep ⟨s.granted_trace op, s.granted_edge op⟩ (.cons hidle' hwait ⟨?_, ?_⟩ (.nil t))
  · rw [htrace]
    simp [State.requestWaited]
  · rw [hedge]
    simp [State.requestWaited, Event.ticks]

section
variable {s : State} (hp : s.paramsOk = true) (ht : s.tmr = 0) (hn : NoReset s) (ha : s.failsAt 0 = false)
include hp ht hn ha

/-- The high half of a body pulse. -/
theorem performs_pulse_high (h : s.phase = .bodyHi) : ∃ t, Performs s [.setHigh, .wait (s.mem.duration s.pulseSel)] t ∧
    SameSymbol 1 s t ∧ t.phase = .bodyLo ∧ t.long_left = s.long_left :=
  ⟨_, performs_request_wait hp ht hn (by rw [h]; rfl) nofun ha (State.advance_bodyHi h) rfl (State.advance_bodyHiW rfl) rfl rfl,
    sameSymbol_requestWaited hn .setHigh _ _ _ _, rfl, rfl⟩

/-- The low half of a long pulse, after which the next pulse is due. -/
theorem performs_pulse_low_more (h : s.phase = .bodyLo) (hl : s.long_left ≠ 0) :
    ∃ t, Performs s [.setLow, .wait s.mem.shortOff] t ∧ SameSymbol 1 s t ∧ t.phase = .bodyHi ∧
      t.long_left = s.long_left - 1 := by
  rw [← s.requestWaited_long_left .setLow .bodyLoW .soff] at hl ⊢
  exact ⟨_, performs_request_wait (op := .setLow) (d := .soff) hp ht hn (by rw [h]; rfl) nofun ha (State.advance_bodyLo h) rfl
    (State.advance_bodyLoW_more rfl hl) rfl rfl, sameSymbol_requestWaited hn .setLow _ _ _ _, rfl, rfl⟩

/-- The low half of the short pulse, after which the group gap is due. -/
theorem performs_pulse_low_last (h : s.phase = .bodyLo) (hl : s.long_left = 0) :
    ∃ t, Performs s [.setLow, .wait s.mem.shortOff] t ∧ SameSymbol 1 s t ∧ t.phase = .grpGap ∧ t.long_left = 0 := by
  rw [← s.requestWaited_long_left .setLow .bodyLoW .soff] at hl
  exact ⟨_, performs_request_wait (op := .setLow) (d := .soff) hp ht hn (by rw [h]; rfl) nofun ha (State.advance_bodyLo h) rfl
    (State.advance_bodyLoW_last rfl hl) rfl rfl, sameSymbol_requestWaited hn .setLow _ _ _ _, rfl, hl⟩

end

/-- The pulses of `GROUP(n)`, all of it but its gap (42_transmitter.md R114). -/
def groupPulses (m : Memory) (n : Nat) : List Event := repeatTrace n (pulseTrace m m.longOn) ++ pulseTrace m m.shortOn

theorem groupPulses_succ (m : Memory) (n : Nat) : groupPulses m (n + 1) = pulseTrace m m.longOn ++ groupPulses m n := by
  rw [groupPulses, repeatTrace_succ, List.append_assoc]
  rfl

theorem length_groupPulses (m : Memory) (n : Nat) : (groupPulses m n).length = 4 * (n + 1) := by
  rw [groupPulses, List.length_append, additive_repeatTrace (f := List.length) fun _ _ => List.length_append]
  simp only [pulseTrace, List.length_cons, List.length_nil]
  ring

/-- From the first pulse of a group on the block performs its pulses, and then the group gap is due. -/
theorem performs_groupPulses {n : Nat} {s : State} (hp : s.paramsOk = true) (ht : s.tmr = 0) (hn : NoReset s)
    (h : s.phase = .bodyHi) (hl : s.long_left = n) (ha : ∀ j, j < 2 * (n + 1) → s.failsAt j = false) :
    ∃ t, Performs s (groupPulses s.mem n) t ∧ SameSymbol (2 * (n + 1)) s t ∧ t.phase = .grpGap ∧ t.long_left = 0 := by
  induction n generalizing s with
  | zero =>
    obtain ⟨t, hhigh, hst, hph, hlong⟩ := performs_pulse_high hp ht hn (ha 0 (by omega)) h
    obtain ⟨u, hlow, htu, hph', hlong'⟩ := performs_pulse_low_last (hst.paramsOk.trans hp) hst.tmr hst.noReset
      ((congrFun hst.failsAt 0).trans (ha 1 (by omega))) hph (hlong.trans hl)
    rw [State.pulseSel, if_pos hl] at hhigh
    rw [hst.mem] at hlow
    exact ⟨u, hhigh.append hlow, hst.trans htu, hph', hlong'⟩
  | succ n ih =>
    have hne : s.long_left ≠ 0 := hl ▸ Nat.succ_ne_zero n
    obtain ⟨t, hhigh, hst, hph, hlong⟩ := performs_pulse_high hp ht hn (ha 0 (by omega)) h
    obtain ⟨u, hlow, htu, hph', hlong'⟩ := performs_pulse_low_more (hst.paramsOk.trans hp) hst.tmr hst.noReset
      ((congrFun hst.failsAt 0).trans (ha 1 (by omega))) hph (hlong ▸ hne)
    have hsu := hst.trans htu
    obtain ⟨v, hrest, huv, hph'', hlong''⟩ := ih (hsu.paramsOk.trans hp) hsu.tmr hsu.noReset hph' (by omega)
      fun j hj => (congrFun hsu.failsAt j).trans (ha (j + 2) (by omega))
    rw [State.pulseSel, if_neg hne] at hhigh
    rw [hst.mem] at hlow
    rw [hsu.mem] at hrest
    rw [groupPulses_succ]
    refine ⟨v, (hhigh.append hlow).append hrest, ?_, hph'', hlong''⟩
    rw [show 2 * (n + 1 + 1) = 1 + 1 + 2 * (n + 1) by ring]
    exact hsu.trans huv

/-- Settles O44: the pulses of the group one after the other. -/
theorem symbolSendsItsGroup : Obligations.SymbolSendsItsGroup := by
  intro n s hi hn h hl ha
  obtain ⟨hp, -, -, -, htimer, -⟩ := hi
  have ht : s.tmr = 0 := by_contra fun h0 => htimer h0 (by simp [State.waitSel, h])
  obtain ⟨t, hrun, hsame, hph, hlong⟩ := performs_groupPulses hp ht hn h hl ha
  have hsteps := hrun.busyRun.run
  rw [length_groupPulses] at hsteps
  have hgroup : groupTrace s.mem n = groupPulses s.mem n ++ [.wait s.mem.longOff] := rfl
  refine ⟨t, hsteps, hph, ?_, ?_, hsame.sym_idx, hsame.rep_left, hlong⟩
  · rw [hrun.trace, List.append_assoc, hgroup]
  · rw [hrun.edge, hgroup, traceTicks_append, traceTicks_wait, Nat.add_assoc]

end Sys2Proof.Machine
end

section
/-! SUPPORT. The pin-driver operations and the wait as meanings (43_pin_driver_ops.md R140 to R146), and the safety of every run: no fault and no refusal is
reached (30_encoding.md R78; 42_transmitter.md R118). -/
namespace Sys2Proof.Machine

/-! ## Runs that never stop -/

/-- Settles O34, step by step: the invariant gives a next state, and that state has the invariant again. -/
theorem safeStatesNeverStop : Obligations.SafeStatesNeverStop := by
  intro n
  induction n with
  | zero => exact fun s _ => ⟨s, rfl⟩
  | succ n ih =>
    intro s hi
    obtain ⟨t, e⟩ := hi.exists_step
    obtain ⟨u, hu⟩ := ih t (stepKeepsTheInvariant s t hi e)
    exact ⟨u, (core_run_of_step e n).trans hu⟩

/-! ## Waits -/

/-- A stretch of edges with no reset holds no listed reset. -/
theorem not_noResetWithin {s : State} {n k : Nat} {w : Nat} (hk : k < n) (h : s.hostIn[k]? = some ⟨true, w⟩) :
    ¬ NoResetWithin n s := fun hn => by
  simpa using hn _ (List.mem_of_getElem? ((List.getElem?_take_of_lt hk).trans h))

/-- A wait with no reset at its edges, as a meaning, lasts its whole duration (43_pin_driver_ops.md R145). -/
theorem waitFor_whole {s : State} {d : Dsel} (hp : s.paramsOk = true) (hn : NoResetWithin (s.mem.duration d) s) :
    waitFor d s = .next (s.afterWait d) := by
  rcases waitFor_cases d s hp with ⟨-, e⟩ | ⟨k, w, hk, -, hr, -⟩
  · exact e
  · exact absurd hn (not_noResetWithin hk hr)

/-- Settles O16: each of the six operations is the wait on its duration select. -/
theorem waitLastsExactlyItsDuration : Obligations.WaitLastsExactlyItsDuration := by
  intro d i s hi hp hn
  obtain rfl : i = d.instr := mem_waitOps.mp hi
  exact (exec_dselInstr d s).trans (waitFor_whole hp hn)

/-- Settles O26: a wait in progress has the ticks on its timer left. -/
theorem waitInProgressRunsToItsEnd : Obligations.WaitInProgressRunsToItsEnd := by
  intro s d hp h ht hn
  obtain ⟨n, rfl, hcases⟩ := step_wait_cases hp h
  rw [if_neg ht] at hcases
  rcases hcases with ⟨-, e⟩ | ⟨k, w, hk, -, hr, -⟩
  · exact e
  · exact absurd hn (not_noResetWithin hk hr)

/-! ## Pin-driver operations -/

/-- The next answer is the first of those to come. -/
theorem State.nextAnswer_eq_fail_iff {s : State} : s.nextAnswer = .fail ↔ s.failsAt 0 = true := by
  refine ⟨State.failsAt_zero_fail, fun h => s.nextAnswer_cases.resolve_left fun ha => ?_⟩
  exact absurd ((State.failsAt_zero_ok ha).symm.trans h) nofun

/-- Settles O11: the port by definition, and the later answers move up by one. -/
theorem requestDrivesThePort : Obligations.RequestDrivesThePort :=
  fun op s => ⟨rfl, State.nextAnswer_eq_fail_iff, congrFun (s.failsAt_request op)⟩

/-- Settles O12: the effect of `CONFIGURE` on `ok`, and `ResourceUnavailable` on `fail`. -/
theorem configureAcquiresThePin : Obligations.ConfigureAcquiresThePin :=
  fun _ hp => ⟨exec_drvInstr_ok (op := .configure) hp nofun, exec_drvInstr_fail (op := .configure) hp nofun⟩

/-- Settles O13: the level each of the two operations sets on `ok`, and `DriverFault` on `fail`. -/
theorem setHighAndSetLowDriveThePin : Obligations.SetHighAndSetLowDriveThePin := by
  refine fun s hp => ⟨fun ha => ⟨?_, ?_⟩, fun ha => ⟨?_, ?_⟩⟩
  · exact exec_drvInstr_ok (op := .setHigh) hp nofun ha
  · exact exec_drvInstr_ok (op := .setLow) hp nofun ha
  · exact exec_drvInstr_fail (op := .setHigh) hp nofun ha
  · exact exec_drvInstr_fail (op := .setLow) hp nofun ha

/-- Settles O14: `RELEASE` has its effect whatever the answer is. -/
theorem releaseGivesThePinBack : Obligations.ReleaseGivesThePinBack :=
  fun _ hp => exec_release_next hp

end Sys2Proof.Machine
end

section
/-! SUPPORT. The host's part (44_host_ops.md): what its operations write (R150 to R152), what ends a transmission (R153), and that of the host inputs a
busy block reads the resets alone (R155; 20_memory.md R65). -/
namespace Sys2Proof.Machine

/-! ## Host operations -/

theorem hostInstr_wellFormed {W : Widths} (start repValid : Bool) {rep cmd : Nat} (hrep : rep < 2 ^ W.repW)
    (hcmd : cmd < 2 ^ W.idW) : (hostInstr start repValid rep cmd).wellFormed W = true := by
  cases start <;> cases repValid <;> simp [hostInstr, Instr.wellFormed, hrep, hcmd]

theorem State.start_of_busy {s : State} (hb : s.busy = true) (rep cmd : Nat) : s.start rep cmd = s := if_pos hb

theorem State.start_of_not_busy {s : State} (hb : s.busy = false) (rep cmd : Nat) :
    s.start rep cmd = s.acceptStart rep cmd := if_neg (by simp [hb])

theorem exec_transmit {s : State} {rep cmd : Nat} (hp : s.paramsOk = true) (hrep : rep < 2 ^ s.params.widths.repW)
    (hcmd : cmd < 2 ^ s.params.widths.idW) : exec (.transmit rep cmd) s = .next (s.start rep cmd) :=
  encodable_ok _ (hostInstr_wellFormed true true hrep hcmd) hp

theorem exec_transmitDflt {s : State} {rep cmd : Nat} (hp : s.paramsOk = true) (hrep : rep < 2 ^ s.params.widths.repW)
    (hcmd : cmd < 2 ^ s.params.widths.idW) : exec (.transmitDflt rep cmd) s = .next (s.start Config.repeatDefault cmd) :=
  encodable_ok _ (hostInstr_wellFormed true false hrep hcmd) hp

/-- Settles O6: an idle block accepts the start. -/
theorem transmitStartsATransmission : Obligations.TransmitStartsATransmission := by
  intro rep cmd s hp hb hrep hcmd
  refine ⟨Config.setupTicks s.draws, ?_⟩
  rw [exec_transmit hp hrep hcmd, State.start_of_not_busy hb]
  rfl

/-- Settles O7: an idle block accepts the start with the default repeat count. -/
theorem transmitDefaultSendsThreeRepeats : Obligations.TransmitDefaultSendsThreeRepeats := by
  intro rep cmd s hp hb hrep hcmd
  refine ⟨Config.setupTicks s.draws, ?_⟩
  rw [exec_transmitDflt hp hrep hcmd, State.start_of_not_busy hb]
  rfl

/-- Settles O8: `HOLD` by definition, a start because the block is busy. -/
theorem holdAndStartWhileBusyChangeNothing : Obligations.HoldAndStartWhileBusyChangeNothing := by
  intro rv rep cmd s hp hrep hcmd
  refine ⟨encodable_ok _ (hostInstr_wellFormed false rv hrep hcmd) hp, fun hb => ⟨?_, ?_⟩⟩
  · rw [exec_transmit hp hrep hcmd, State.start_of_busy hb]
  · rw [exec_transmitDflt hp hrep hcmd, State.start_of_busy hb]

/-! ## The end of a transmission -/

/-- Settles O40, row by row: every other row of a busy block ends in a phase of the transmission. -/
theorem onlyTheseStepsEndATransmission : Obligations.OnlyTheseStepsEndATransmission := by
  intro s t _ hn hbusy e hidle
  cases step_to e with
  | hold h | start _ _ _ _ h | resetIdle h => exact absurd h hbusy
  | reset k w _ _ hr => exact absurd hn (not_noReset hr)
  | unknown h | invalid h => exact ⟨rfl, rfl, .inl ⟨h, rfl⟩⟩
  | configureFails h => exact ⟨rfl, rfl, .inr (.inl ⟨h, rfl⟩)⟩
  | release h => exact ⟨rfl, rfl, .inr (.inr ⟨h, rfl⟩)⟩
  | _ => cases hidle

/-! ## Host words of a busy block

Two states that differ in the host words ahead alone are taken through every function of the step side by side: only the step of an idle block reads a
word. -/

/-- Two conditionals on one condition are related when their branches are. -/
theorem ite_related {α : Type} {R : α → α → Prop} {c : Prop} [Decidable c] {a b a' b' : α} (h : R a a') (h' : R b b') :
    R (if c then a else b) (if c then a' else b') := by
  split
  · exact h
  · exact h'

/-- The second state has other host words ahead, with the same resets. -/
inductive OtherWords (s : State) : State → Prop where
  | intro (l : List HostIn) (h : l.map HostIn.rst = s.hostIn.map HostIn.rst) : OtherWords s { s with hostIn := l }

/-- Two results of one kind: the same stop, or two states that differ in the host words alone. -/
inductive SameResult : Result → Result → Prop where
  | next {s t : State} (h : OtherWords s t) : SameResult (.next s) (.next t)
  | fault (f : Fault) : SameResult (.fault f) (.fault f)
  | refused (x : Refusal) : SameResult (.refused x) (.refused x)

/-- Two stretches of ticks that end the same way, in states that differ in the host words alone. -/
inductive SamePassed : Passed → Passed → Prop where
  | elapsed {s t : State} (h : OtherWords s t) : SamePassed (.elapsed s) (.elapsed t)
  | reset {s t : State} (h : OtherWords s t) : SamePassed (.reset s) (.reset t)

theorem SamePassed.state {p q : Passed} (h : SamePassed p q) : OtherWords p.state q.state := by
  cases h with
  | elapsed h | reset h => exact h

theorem SameResult.andThen {r r' : Result} {k : State → Result} (h : SameResult r r')
    (hk : ∀ {u v}, OtherWords u v → SameResult (k u) (k v)) : SameResult (andThen r k) (andThen r' k) := by
  cases h with
  | next h => exact hk h
  | fault f => exact .fault f
  | refused x => exact .refused x

namespace OtherWords
variable {s t s' t' : State}

theorem cmd_r (h : OtherWords s t) : t.cmd_r = s.cmd_r := by cases h; rfl
theorem mem (h : OtherWords s t) : t.mem = s.mem := by cases h; rfl
theorem params (h : OtherWords s t) : t.params = s.params := by cases h; rfl
theorem phase (h : OtherWords s t) : t.phase = s.phase := by cases h; rfl
theorem busy (h : OtherWords s t) : t.busy = s.busy := by cases h; rfl
theorem tmr (h : OtherWords s t) : t.tmr = s.tmr := by cases h; rfl
theorem setup_left (h : OtherWords s t) : t.setup_left = s.setup_left := by cases h; rfl
theorem waitSel (h : OtherWords s t) : t.waitSel = s.waitSel := by cases h; rfl
theorem dirEntry (h : OtherWords s t) : t.dirEntry = s.dirEntry := by cases h; rfl
theorem nextAnswer (h : OtherWords s t) : t.nextAnswer = s.nextAnswer := by cases h; rfl
theorem paramsOk (h : OtherWords s t) : t.paramsOk = s.paramsOk := by cases h; rfl

/-! ### Ticks -/

theorem nextIn_rst (h : OtherWords s t) : t.nextIn.rst = s.nextIn.rst := by
  obtain ⟨l, h⟩ := h
  have hrst (l : List HostIn) : (l.headD ⟨false, 0⟩).rst = (l.map HostIn.rst).headD false := by cases l <;> rfl
  exact (hrst l).trans ((congrArg (·.headD false) h).trans (hrst s.hostIn).symm)

theorem resetAtEdge (h : OtherWords s t) : OtherWords s.clockEdge.toReset t.clockEdge.toReset := by
  obtain ⟨l, h⟩ := h
  exact ⟨l.tail, by simp [h]⟩

theorem timerDown (h : OtherWords s t) : OtherWords s.timerDown t.timerDown := by
  obtain ⟨l, h⟩ := h
  exact ⟨l.tail, by simp [h, State.timerDown]⟩

theorem setupDown (h : OtherWords s t) : OtherWords s.setupDown t.setupDown := by
  obtain ⟨l, h⟩ := h
  exact ⟨l.tail, by simp [h, State.setupDown]⟩

theorem timerTick (h : OtherWords s t) : SamePassed s.timerTick t.timerTick := by
  simp only [State.timerTick, h.nextIn_rst]
  exact ite_related (.reset h.resetAtEdge) (.elapsed h.timerDown)

theorem setupTick (h : OtherWords s t) : SamePassed s.setupTick t.setupTick := by
  simp only [State.setupTick, h.nextIn_rst]
  exact ite_related (.reset h.resetAtEdge) (.elapsed h.setupDown)

theorem passTicks {tick : State → Passed} (htick : ∀ {u v}, OtherWords u v → SamePassed (tick u) (tick v)) (n : Nat)
    (h : OtherWords s t) : SamePassed (passTicks tick n s) (passTicks tick n t) := by
  induction n generalizing s t with
  | zero => exact .elapsed h
  | succ n ih =>
    have hsame := htick h
    simp only [Machine.passTicks]
    generalize tick s = p, tick t = q at hsame ⊢
    cases hsame with
    | elapsed h' => exact ih h'
    | reset h' => exact .reset h'

theorem waitDone (d : Dsel) : OtherWords s t → OtherWords (s.waitDone d) (t.waitDone d) :=
  fun ⟨l, h⟩ => ⟨l, h⟩

theorem runTimer (d : Dsel) (h : OtherWords s t) : SamePassed (s.runTimer d) (t.runTimer d) := by
  have hsame := h.passTicks timerTick s.tmr
  simp only [State.runTimer, h.tmr]
  generalize Machine.passTicks State.timerTick s.tmr s = p, Machine.passTicks State.timerTick s.tmr t = q at hsame ⊢
  cases hsame with
  | elapsed h' => exact .elapsed (h'.waitDone d)
  | reset h' => exact .reset h'

/-! ### Operations -/

theorem gated (h : OtherWords s t) (h' : OtherWords s' t') : SameResult (gated s s') (gated t t') := by
  simp only [Machine.gated, h.paramsOk]
  exact ite_related (.next h') (.refused _)

theorem encodable (i : Instr) (h : OtherWords s t) (h' : OtherWords s' t') :
    SameResult (encodable i s s') (encodable i t t') := by
  simp only [Machine.encodable, h.params]
  exact ite_related (h.gated h') (.refused _)

theorem start (rep cmd : Nat) (h : OtherWords s t) : OtherWords (s.start rep cmd) (t.start rep cmd) := by
  simp only [State.start, h.busy]
  exact ite_related h (match h with | ⟨l, h⟩ => ⟨l, h⟩)

theorem raise (e : ErrKind) (h : OtherWords s t) : OtherWords (s.raise e) (t.raise e) := by
  obtain ⟨l, h⟩ := h
  cases e <;> exact ⟨l, h⟩

theorem requested (op : DrvOp) (failed : Bool) : OtherWords s t → OtherWords (s.requested op failed) (t.requested op failed) :=
  fun ⟨l, h⟩ => ⟨l, h⟩

theorem requestOr (op : DrvOp) {f : State → State} (e : ErrKind) (hf : ∀ {u v}, OtherWords u v → OtherWords (f u) (f v))
    (h : OtherWords s t) : OtherWords (s.requestOr op f e) (t.requestOr op f e) := by
  rcases s.nextAnswer_cases with ha | ha
  · rw [State.requestOr_ok _ _ _ ha, State.requestOr_ok _ _ _ (h.nextAnswer.trans ha)]
    exact hf (h.requested op false)
  · rw [State.requestOr_fail _ _ _ ha, State.requestOr_fail _ _ _ (h.nextAnswer.trans ha)]
    exact (h.requested op true).raise e

theorem enterWait (d : Dsel) : OtherWords s t → OtherWords (s.enterWait d) (t.enterWait d) :=
  fun ⟨l, h⟩ => ⟨l, h⟩

theorem waitFor (d : Dsel) (h : OtherWords s t) : SameResult (waitFor d s) (waitFor d t) :=
  h.gated ((h.enterWait d).runTimer d).state

/-- No operation reads the host words ahead. -/
theorem exec (i : Instr) (h : OtherWords s t) : SameResult (exec i s) (exec i t) := by
  cases i with
  | hold => exact h.encodable _ h
  | transmit | transmitDflt => exact h.encodable _ (h.start _ _)
  | sym => exact h.encodable _ (match h with | ⟨l, h⟩ => ⟨l, h⟩)
  | symNeg => exact h.encodable _ (h.raise _)
  | configure | setHigh | setLow => exact h.gated (h.requestOr _ _ fun ⟨l, h⟩ => ⟨l, h⟩)
  | release => exact h.gated (match h with | ⟨l, h⟩ => ⟨l, h⟩)
  | waitSon | waitLon | waitSoff | waitLoff | waitHres | waitRres => exact h.waitFor _

/-! ### The sequencer -/

theorem validate (h : OtherWords s t) : SameResult s.validate t.validate := by
  by_cases hc : s.cmd_r < s.params.nCmds
  · simp only [State.validate, State.lookup, h.cmd_r, h.params, h.mem, h.dirEntry, if_pos hc]
    obtain ⟨l, h⟩ := h
    refine ite_related ?_ (.next ⟨l, h⟩)
    split
    · exact exec _ ⟨l, h⟩
    · exact .next ⟨l, h⟩
  · simp only [State.validate, State.lookup, h.cmd_r, h.params, if_neg hc]
    exact .next (h.raise _)

theorem dispatchSymbol (h : OtherWords s t) : SameResult s.dispatchSymbol t.dispatchSymbol := by
  obtain ⟨l, h⟩ := h
  exact ite_related (ite_related (ite_related (.fault _) (exec _ ⟨l, h⟩)) (.fault _)) (ite_related (.refused _) (.next ⟨l, h⟩))

theorem advance (h : OtherWords s t) : SameResult s.advance t.advance := by
  cases hph : s.phase
  all_goals simp only [State.advance, h.phase, hph]
  all_goals obtain ⟨l, h⟩ := h
  case config | bodyLoW => exact .next (ite_related ⟨l, h⟩ ⟨l, h⟩)
  case hdrLoW => exact ite_related (.refused _) (.next ⟨l, h⟩)
  case hdrRes => exact dispatchSymbol ⟨l, h⟩
  case grpGap => exact ite_related (dispatchSymbol ⟨l, h⟩) (.refused _)
  case reserved => exact .refused _
  all_goals exact .next ⟨l, h⟩

theorem runWord (f : Format) (w : Nat) (h : OtherWords s t) : SameResult (s.runWord f w) (t.runWord f w) := by
  simp only [State.runWord, h.params, h.phase]
  split
  · exact .refused _
  · refine (h.exec _).andThen fun h' => ?_
    rw [h'.phase]
    exact ite_related h'.advance (.next h')

theorem resumeWait (d : Dsel) (h : OtherWords s t) : SameResult (s.resumeWait d) (t.resumeWait d) := by
  have hsame := h.runTimer d
  simp only [State.resumeWait]
  generalize s.runTimer d = p, t.runTimer d = q at hsame ⊢
  cases hsame with
  | elapsed h' => exact h'.advance
  | reset h' => exact .next h'

theorem validateStep (h : OtherWords s t) : SameResult s.validateStep t.validateStep := by
  have hsame := h.passTicks setupTick s.setup_left
  simp only [State.validateStep, h.setup_left]
  generalize Machine.passTicks State.setupTick s.setup_left s = p,
    Machine.passTicks State.setupTick s.setup_left t = q at hsame ⊢
  cases hsame with
  | elapsed h' => exact h'.validate
  | reset h' => exact .next h'

/-- No fetch but that of an idle block reads a host word. -/
theorem fetch (h : OtherWords s t) (hbusy : s.phase ≠ .idle) : t.fetch = s.fetch := by
  simp only [State.fetch, h.phase, h.waitSel]

theorem runFetched (h : OtherWords s t) (hbusy : s.phase ≠ .idle) : SameResult s.runFetched t.runFetched := by
  simp only [State.runFetched, h.fetch hbusy]
  split
  · exact .refused _
  · exact h.runWord _ _

/-- The step of a busy block (44_host_ops.md R155). -/
theorem step (h : OtherWords s t) (hbusy : s.phase ≠ .idle) : SameResult (step s) (step t) := by
  simp only [Machine.step, h.paramsOk]
  refine ite_related ?_ (.refused _)
  simp only [State.opStep, h.phase, h.waitSel, h.tmr]
  split
  · contradiction
  · exact h.validateStep
  · split
    · exact ite_related (h.runFetched hbusy) (h.resumeWait _)
    · exact h.runFetched hbusy

end OtherWords

/-- Settles O38: the two steps give the same kind of result, and the first gives a next state. -/
theorem hostWordsAreIgnoredWhileBusy : Obligations.HostWordsAreIgnoredWhileBusy := by
  intro s t l hbusy hl e
  have hsame := (OtherWords.intro l hl).step hbusy
  rw [e] at hsame
  generalize step { s with hostIn := l } = r at hsame ⊢
  cases hsame with
  | next h =>
    obtain ⟨l', hl'⟩ := h
    exact ⟨l', rfl, hl'⟩

end Sys2Proof.Machine
end

section
/-! SUPPORT. Errors and the end of a transmission (60_exceptions.md): what writes `err` (R160, R165), what gives an acquired pin up (R166), and a `Release`
that fails (R167). -/
namespace Sys2Proof.Machine

/-- A reset at the next edge is one of the resets that `NoReset` rules out. -/
theorem not_noReset_of_nextIn {s : State} (hr : s.nextIn.rst = true) : ¬ NoReset s := fun hn => by
  simp [hn.nextIn] at hr

/-- Settles O39, row by row: only the accepted start and the rows of the three errors write `err`. -/
theorem errIsWrittenOnlyByErrorsAndStarts : Obligations.ErrIsWrittenOnlyByErrorsAndStarts := by
  intro s t hi hn e
  cases step_to e with
  | resetIdle _ hr => exact absurd hn (not_noReset_of_nextIn hr)
  | reset k w _ _ hr => exact absurd hn (not_noReset hr)
  | start _ _ _ _ h => exact .inr (.inl ⟨rfl, h, rfl⟩)
  | unknown h | invalid h => exact .inr (.inr (.inl ⟨rfl, h, rfl, rfl, rfl⟩))
  | highFails h | lowFails h =>
    refine .inr (.inr (.inr (.inl ⟨rfl, ?_, rfl, rfl⟩)))
    rcases h with h | h <;> simp [h]
  | configureFails h =>
    obtain ⟨-, -, hflags, -⟩ := hi
    obtain ⟨-, hoe, -⟩ := (flagsInv_busy h nofun).mp hflags
    exact .inr (.inr (.inr (.inr ⟨rfl, h, rfl, rfl, hoe⟩)))
  | _ => exact .inl rfl

/-- Settles O41, row by row: of the rows that a reset does not take, `release` alone sets `tx_oe` to 0. -/
theorem acquiredPinIsGivenUpOnlyByRelease : Obligations.AcquiredPinIsGivenUpOnlyByRelease := by
  intro s t _ hn hon e hoff
  cases step_to e with
  | resetIdle _ hr => exact absurd hn (not_noReset_of_nextIn hr)
  | reset k w _ _ hr => exact absurd hn (not_noReset hr)
  | release h => exact ⟨h, rfl, rfl, rfl, rfl⟩
  | configureEmpty | configure => cases hoff
  | _ => exact absurd (hon.symm.trans hoff) nofun

/-- Settles O48: `RELEASE` has its effect, and the step is that one operation, whatever the answer is. -/
theorem failedReleaseIsIgnored : Obligations.FailedReleaseIsIgnored := by
  intro s hp _ h
  have hcount : countReq .release (s.trace ++ [.release]) = countReq .release s.trace + 1 := countReq_append _ _ _
  exact ⟨s.granted .release, exec_release_next hp, step_release hp h, rfl, rfl, rfl, rfl, rfl, rfl, hcount⟩

end Sys2Proof.Machine
end

section
/-! SUPPORT. Reset (70_reset_and_hazards.md R190, R191): at which edge it ends a wait, and that it wins at the next edge of every phase that reaches one. -/
namespace Sys2Proof.Machine

/-- A reset at the `k`-th edge of the ticks left on the timer ends the wait there, with no event (R191). -/
theorem State.runTimer_resetAfter {s : State} {k w : Nat} (d : Dsel) (hk : k < s.tmr) (hn : NoResetWithin k s)
    (hr : s.hostIn[k]? = some ⟨true, w⟩) : s.runTimer d = .reset (s.resetAfter k) := by
  rw [State.runTimer, passTicks_timer_reset hk hn hr]

/-- A reset at the `k`-th edge of a whole wait, as a meaning: what the entry of the wait wrote is reset with the rest. -/
theorem waitFor_reset {s : State} {d : Dsel} {k w : Nat} (hp : s.paramsOk = true) (hk : k < s.mem.duration d)
    (hn : NoResetWithin k s) (hr : s.hostIn[k]? = some ⟨true, w⟩) : waitFor d s = .next (s.resetAfter k) := by
  have hrun : (s.enterWait d).runTimer d = .reset ((s.enterWait d).resetAfter k) :=
    State.runTimer_resetAfter d hk hn hr
  rw [waitFor, gated_ok _ hp, hrun]
  rfl

/-- Settles O17: each of the six operations is the wait on its duration select. -/
theorem resetEndsAWaitAtItsEdge : Obligations.ResetEndsAWaitAtItsEdge := by
  intro d i s k w hi hp hk hn hr
  obtain rfl : i = d.instr := mem_waitOps.mp hi
  exact (exec_dselInstr d s).trans (waitFor_reset hp hk hn hr)

/-- A reset at the next edge of a wait in progress is the whole step: the position does not advance. -/
theorem State.resumeWait_reset {s : State} (d : Dsel) (ht : s.tmr ≠ 0) (hr : s.nextIn.rst = true) :
    s.resumeWait d = .next s.clockEdge.toReset := by
  rw [State.resumeWait, s.runTimer_reset d ht hr]

theorem step_idle_reset {s : State} (hp : s.paramsOk = true) (h : s.phase = .idle) (hr : s.nextIn.rst = true) :
    step s = .next s.clockEdge.toReset := by
  rw [step_idle hp h, State.idleStep, if_pos hr]

/-- A waiting phase that takes time reaches an edge: of the wait in progress, or of the one it enters. -/
theorem step_wait_reset {s : State} {d : Dsel} (hp : s.paramsOk = true) (h : s.waitSel = some d)
    (htime : s.tmr ≠ 0 ∨ s.mem.duration d ≠ 0) (hr : s.nextIn.rst = true) : step s = .next s.clockEdge.toReset := by
  by_cases ht : s.tmr = 0
  · have hd : (s.enterWait d).tmr ≠ 0 := htime.resolve_left (not_not_intro ht)
    rw [step_wait hp h ht, afterOp_waitFor hp h]
    exact (s.enterWait d).resumeWait_reset d hd hr
  · rw [step_resume hp h ht, s.resumeWait_reset d ht hr]

/-- Settles O19: an idle block, one in its set-up time, and one in a phase that waits. -/
theorem resetWinsAtTheNextEdge : Obligations.ResetWinsAtTheNextEdge := by
  intro s hp hr hphase
  rcases hphase with h | ⟨h, hsetup⟩ | ⟨d, h, htime⟩
  · exact step_idle_reset hp h hr
  · exact (step_validate hp h).trans (State.validateStep_reset hsetup hr)
  · exact step_wait_reset hp h htime hr

end Sys2Proof.Machine
end
